-- ==== Sys2Proof/Word.lean ====
section
/-! DEFINITION. The two data widths of the hardware (spec 00_scope.md R5: 16-bit addresses, 8- and 16-bit data). -/

namespace Sys2Proof

/-- An 8-bit value: a memory location, a B register, an immB (R5, R50). -/
abbrev Byte := BitVec 8

/-- A 16-bit value: an address, a W register, SP, PC (R5, R24, R27). -/
abbrev Word := BitVec 16

end Sys2Proof
end

