-- ==== Sys2Proof/Config.lean ====
section
/-! DEFINITION. The types of the named parameters of the hardware (spec 00_scope.md R5, 92_eei_decisions.md "Named
parameters"), and the defaults of `RESET_PC`, `VEC_BASE` and `JBE_COND`. The default of `OPC` stands in Decode.lean
(`opcodeByte`), that of `IntTarget` in Machine/Ops.lean (`intTarget`). The machine that takes the parameters as
arguments is the one of Machine/Platform.lean, with `State.resetAt`; `step` and `State.reset` are that machine at the
defaults. -/

namespace Sys2Proof

/-- `RESET_PC`, default 0x0000 (R37, R330). DESIGN CHOICE: the spec leaves the value open with this default (log 5). -/
def Config.resetPC : Word := 0x0000

/-- `VEC_BASE`, default 0xFFE0 (R247, R55). DESIGN CHOICE: the spec leaves the value open with this default (log 7). -/
def Config.vecBase : Word := 0xFFE0

/-- What a memory byte that nothing has written reads as. DESIGN CHOICE, unsafe for claims about a run from
`State.reset` (log 4): the spec leaves it unspecified (R37). -/
def Config.unwrittenByte : Byte := 0x00

/-- The two readings of JBE's condition, the optional parameter `JBE_COND` (R257, 90_conflicts.md C1). -/
inductive JbeCond where
  /-- `(C==0) || (Z==1)`: the reading the spec takes. -/
  | resolved
  /-- `(C==0) && (Z==1)`: the source's printed text. -/
  | printed
  deriving DecidableEq, Repr

/-- `JBE_COND` at the reading every example of the spec uses (R257, D29; log 11). -/
def Config.jbeCond : JbeCond := .resolved

/-- The parameter `IntTarget` (R247, D20): a function from the vector number, 1 to 16, and the memory to an address. It
is given by the addresses it reads, which a memory map may refuse (R56), and by what it makes of the bytes there, so
that it depends on no other byte. -/
structure IntTarget where
  reads : Nat → List Word
  target : Nat → List Byte → Word

/-- A run of addresses that a platform's memory map does NOT declare plain memory (R56). -/
structure Hole where
  base : Word
  size : Nat
  deriving DecidableEq, Repr

end Sys2Proof
end

