-- ==== Sys2Proof/Machine/State.lean ====
section
/-! DEFINITION. The state of the machine (spec 10_state.md), what stops it, and the state after reset. -/

namespace Sys2Proof.Machine

/-- The eight B registers: the one storage of 64 bits behind B0..B7 and W0..W3 (R20, R21). -/
structure Regs where
  b0 : Byte
  b1 : Byte
  b2 : Byte
  b3 : Byte
  b4 : Byte
  b5 : Byte
  b6 : Byte
  b7 : Byte
  deriving DecidableEq, Repr

/-- FL: the five flags I, N, V, Z, C, and no other bit (R29, R30). -/
structure Flags where
  i : Bool
  n : Bool
  v : Bool
  z : Bool
  c : Bool
  deriving DecidableEq, Repr

/-- The 65,536 bytes of memory (R35, R50) as the list of the bytes that differ from `Config.unwrittenByte`, addresses
strictly rising (`Memory.wf` in Machine/Ops.lean says so). -/
abbrev Memory := List Host.Cell

/-- The whole state (R20, R34, R35, R36): the eleven registers and memory. -/
structure State where
  regs : Regs
  pc : Word
  sp : Word
  fl : Flags
  mem : Memory
  deriving DecidableEq, Repr

/-- What stops the machine. -/
inductive Fault where
  /-- `IllegalInstruction` (R97, R309), the model-level fault: raised by `step` at decode when the byte at PC is no
  opcode byte, or the register byte has a reserved bit set. It carries the address and the bytes read. Safe: the model
  stops where the hardware would do something no source says. -/
  | illegalInstruction (addr : Word) (bytes : List Byte)
  deriving DecidableEq, Repr

/-- What the model gives no step to. -/
inductive Refusal where
  /-- An instruction without a meaning yet, by its mnemonic; raised by `exec` alone. Safe. No arm raises it now. -/
  | notModelled (mnemonic : String)
  /-- A term that `Instr.wf` refuses (`INT n` with n outside 1..16), which no bytes decode to; raised by `execInt`.
  Safe. -/
  | illFormed (mnemonic : String)
  /-- An access to an address that the platform's memory map does not declare plain memory (R56); raised by
  `platformStep` under a map other than the default, never by `step`. Safe. -/
  | outsideMemMap (addr : Word)
  deriving DecidableEq, Repr

/-- The outcome of a step of this machine. -/
abbrev Outcome := Host.Outcome State Fault Refusal

/-- The machine right after reset (R37, R330) where the host chose the `RESET_PC` given (R339). The B registers, SP,
the flags and memory are unspecified by the spec; DESIGN CHOICE, unsafe: zero (logs 1 to 4). `PowerOn` in Safety.lean
is the set of all the states the spec allows. -/
def State.resetAt (resetPC : Word) : State where
  regs := { b0 := 0, b1 := 0, b2 := 0, b3 := 0, b4 := 0, b5 := 0, b6 := 0, b7 := 0 }
  pc := resetPC
  sp := 0
  fl := { i := false, n := false, v := false, z := false, c := false }
  mem := []

/-- The machine right after reset at the default `RESET_PC` (D23; log 5). -/
def State.reset : State := State.resetAt Config.resetPC

end Sys2Proof.Machine
end

