-- ==== Sys2Proof/Machine/Flags.lean ====
section
/-! DEFINITION. The arithmetic, flag and shift helpers of spec 00_scope.md R9 to R12, and the conditions of the
fourteen conditional jumps (43_branching.md R248 to R261). The width is a parameter: it is 8 or 16. -/

namespace Sys2Proof.Machine

/-- The record `AddC_N` returns (R9). -/
structure AddRec (w : Nat) where
  r : BitVec w
  c : Bool
  v : Bool
  n : Bool
  z : Bool
  deriving DecidableEq, Repr

/-- `AddC_N(a, b, cin)` (R9): the exact sum, its low bits, its carry out, signed overflow, sign and zero. -/
def addC {w : Nat} (a b : BitVec w) (cin : Bool) : AddRec w :=
  let sum := a.toNat + b.toNat + cin.toNat
  let r := BitVec.ofNat w sum
  { r := r
    c := decide (2 ^ w ≤ sum)
    v := decide (a.msb = b.msb) && decide (r.msb ≠ a.msb)
    n := r.msb
    z := decide (r = 0) }

/-- `a - b` with the carry in `cin` in the not-borrow sense: `AddC_N(a, not_N(b), cin)` (R9, R161). -/
def subC {w : Nat} (a b : BitVec w) (cin : Bool) : AddRec w := addC a (~~~b) cin

/-- `SetNZ_N(r)` (R10). -/
def Flags.setNZ {w : Nat} (f : Flags) (r : BitVec w) : Flags := { f with n := r.msb, z := decide (r = 0) }

/-- `SetNVZC(rec)` (R10). -/
def Flags.setNVZC {w : Nat} (f : Flags) (a : AddRec w) : Flags := { f with n := a.n, v := a.v, z := a.z, c := a.c }

/-- The flags after a shift or rotate with result `r` and bit moved out `c` (R160, R200). -/
def Flags.setShift {w : Nat} (f : Flags) (r : BitVec w) (c : Bool) : Flags := { f with c := c }.setNZ r

/-- The five kinds of shift and rotate (R11). -/
inductive ShiftKind where
  | shl | shr | sar | rol | ror
  deriving DecidableEq, Repr

/-- `Sh1_N(kind, a)`: by one bit, and the bit moved out (R11). -/
def sh1 {w : Nat} (k : ShiftKind) (a : BitVec w) : BitVec w × Bool :=
  match k with
  | .shl => (a <<< 1, a.msb)
  | .shr => (a >>> 1, a.getLsbD 0)
  | .sar => (a.sshiftRight 1, a.getLsbD 0)
  | .rol => (a.rotateLeft 1, a.msb)
  | .ror => (a.rotateRight 1, a.getLsbD 0)

/-- `ShN_N(kind, a, cnt, c0)`: `Sh1_N` applied `cnt` times, with the last bit moved out, or `(a, c0)` for no times
(R12). -/
def shN {w : Nat} (k : ShiftKind) : Nat → BitVec w → Bool → BitVec w × Bool
  | 0, a, c0 => (a, c0)
  | cnt + 1, a, _ => shN k cnt (sh1 k a).1 (sh1 k a).2

/-- The conditions of the fourteen conditional jumps, by the jump's name (R248 to R261). JBE's is under a reading of
`JBE_COND` (R257). -/
inductive Cond where
  | z | nz | c | nc | n | nn | v | nv | a | be (k : JbeCond) | ge | l | g | le
  deriving DecidableEq, Repr

/-- JBE's condition under a reading of the source's line (R257, 90_conflicts.md C1). -/
def beHolds (k : JbeCond) (f : Flags) : Bool :=
  match k with
  | .resolved => !f.c || f.z
  | .printed => !f.c && f.z

/-- When a condition holds of the flags (R248 to R261). -/
def Cond.holds (k : Cond) (f : Flags) : Bool :=
  match k with
  | .z => f.z
  | .nz => !f.z
  | .c => f.c
  | .nc => !f.c
  | .n => f.n
  | .nn => !f.n
  | .v => f.v
  | .nv => !f.v
  | .a => f.c && !f.z
  | .be k => beHolds k f
  | .ge => f.n == f.v
  | .l => f.n != f.v
  | .g => !f.z && (f.n == f.v)
  | .le => f.z || (f.n != f.v)

end Sys2Proof.Machine
end

