-- ==== Sys2Proof/Syntax.lean ====
section
/-! DEFINITION. The syntax of the machine: register names, and one constructor of `Instr` for each of the 105 rows of
spec/opcode_table.json (the 120 opcodes of R3, INT being one row). `x` is the operand written first (destination and
left source), `y` and `z` the registers written after it (spec 30_encoding.md R82, R86). -/

namespace Sys2Proof

/-- The eight 8-bit registers (R20, R22). -/
inductive BReg where
  | b0 | b1 | b2 | b3 | b4 | b5 | b6 | b7
  deriving DecidableEq, Repr

/-- The four 16-bit views of the B registers (R21, R22). -/
inductive WReg where
  | w0 | w1 | w2 | w3
  deriving DecidableEq, Repr

/-- The instructions. Each docstring gives the assembler form (R98) and the rule with the meaning. -/
inductive Instr where
  -- Transfer (spec 40_transfer.md)
  /-- `LDB Bx [ImmW]` (R121). -/
  | ldbM0 (x : BReg) (imm : Word)
  /-- `LDW Wx [ImmW]` (R122). -/
  | ldwM0 (x : WReg) (imm : Word)
  /-- `SRB Bx [ImmW]` (R123). -/
  | srbM0 (x : BReg) (imm : Word)
  /-- `SRW Wx [ImmW]` (R124). -/
  | srwM0 (x : WReg) (imm : Word)
  /-- `LDB Bx [Wy]` (R125). -/
  | ldbM1 (x : BReg) (y : WReg)
  /-- `LDW Wx [Wy]` (R126). -/
  | ldwM1 (x y : WReg)
  /-- `SRB Bx [Wy]` (R127). -/
  | srbM1 (x : BReg) (y : WReg)
  /-- `SRW Wx [Wy]` (R128). -/
  | srwM1 (x y : WReg)
  /-- `LDB Bx [Wy + ImmW]` (R129). -/
  | ldbM2 (x : BReg) (y : WReg) (imm : Word)
  /-- `LDW Wx [Wy + ImmW]` (R130). -/
  | ldwM2 (x y : WReg) (imm : Word)
  /-- `SRB Bx [Wy + ImmW]` (R131). -/
  | srbM2 (x : BReg) (y : WReg) (imm : Word)
  /-- `SRW Wx [Wy + ImmW]` (R132). -/
  | srwM2 (x y : WReg) (imm : Word)
  /-- `LDB Bx [SP + Wy]` (R133). -/
  | ldbM3 (x : BReg) (y : WReg)
  /-- `LDW Wx [SP + Wy]` (R134). -/
  | ldwM3 (x y : WReg)
  /-- `SRB Bx [SP + Wy]` (R135). -/
  | srbM3 (x : BReg) (y : WReg)
  /-- `SRW Wx [SP + Wy]` (R136). -/
  | srwM3 (x y : WReg)
  /-- `LDB Bx [Wy + Wz]` (R137). -/
  | ldbM4 (x : BReg) (y z : WReg)
  /-- `LDW Wx [Wy + Wz]` (R138). -/
  | ldwM4 (x y z : WReg)
  /-- `SRB Bx [Wy + Wz]` (R139). -/
  | srbM4 (x : BReg) (y z : WReg)
  /-- `SRW Wx [Wy + Wz]` (R140). -/
  | srwM4 (x y z : WReg)
  /-- `PUSHF` (R141). -/
  | pushf
  /-- `PUSH Wx` (R142). -/
  | push (x : WReg)
  /-- `POPF` (R143). -/
  | popf
  /-- `POP Wx` (R144). -/
  | pop (x : WReg)
  -- Register transform, byte forms (41_alu_byte.md)
  /-- `MOV Bx By` (R162). -/
  | movb (x y : BReg)
  /-- `MOV Bx immB` (R163). -/
  | movbi (x : BReg) (imm : Byte)
  /-- `NOT Bx` (R164). -/
  | notb (x : BReg)
  /-- `AND Bx By` (R165). -/
  | andb (x y : BReg)
  /-- `OR Bx By` (R166). -/
  | orb (x y : BReg)
  /-- `EOR Bx By` (R167). -/
  | eorb (x y : BReg)
  /-- `NEG Bx` (R168). -/
  | negb (x : BReg)
  /-- `INC Bx` (R169). -/
  | incb (x : BReg)
  /-- `DEC Bx` (R170). -/
  | decb (x : BReg)
  /-- `ADD Bx By` (R171). -/
  | addb (x y : BReg)
  /-- `SUB Bx By` (R172). -/
  | subb (x y : BReg)
  /-- `ADC Bx By` (R173). -/
  | adcb (x y : BReg)
  /-- `SBB Bx By` (R174). -/
  | sbbb (x y : BReg)
  /-- `SHL Bx 1` (R175). -/
  | shlb1 (x : BReg)
  /-- `SHL Bx By` (R176). -/
  | shlb (x y : BReg)
  /-- `SHR Bx 1` (R177). -/
  | shrb1 (x : BReg)
  /-- `SHR Bx By` (R178). -/
  | shrb (x y : BReg)
  /-- `SAR Bx 1` (R179). -/
  | sarb1 (x : BReg)
  /-- `SAR Bx By` (R180). -/
  | sarb (x y : BReg)
  /-- `ROR Bx 1` (R181). -/
  | rorb (x : BReg)
  /-- `ROL Bx 1` (R182). -/
  | rolb (x : BReg)
  /-- `SWP Bx By` (R183). -/
  | swpb (x y : BReg)
  -- Register transform, word forms (42_alu_word.md)
  /-- `MOV Wx Wy` (R201). -/
  | movw (x y : WReg)
  /-- `MOV Wx immW` (R202). -/
  | movwi (x : WReg) (imm : Word)
  /-- `MOV SP Wx` (R203). -/
  | movsw (x : WReg)
  /-- `MOV Wx SP` (R204). -/
  | movws (x : WReg)
  /-- `NOT Wx` (R205). -/
  | notw (x : WReg)
  /-- `AND Wx Wy` (R206). -/
  | andw (x y : WReg)
  /-- `OR Wx Wy` (R207). -/
  | orw (x y : WReg)
  /-- `EOR Wx Wy` (R208). -/
  | eorw (x y : WReg)
  /-- `NEG Wx` (R209). -/
  | negw (x : WReg)
  /-- `INC Wx` (R210). -/
  | incw (x : WReg)
  /-- `DEC Wx` (R211). -/
  | decw (x : WReg)
  /-- `ADD Wx Wy` (R212). -/
  | addw (x y : WReg)
  /-- `SUB Wx Wy` (R213). -/
  | subw (x y : WReg)
  /-- `ADC Wx Wy` (R214). -/
  | adcw (x y : WReg)
  /-- `SBB Wx Wy` (R215). -/
  | sbbw (x y : WReg)
  /-- `SHL Wx 1` (R216). -/
  | shlw1 (x : WReg)
  /-- `SHL Wx By` (R217). -/
  | shlwb (x : WReg) (y : BReg)
  /-- `SHR Wx 1` (R218). -/
  | shrw1 (x : WReg)
  /-- `SHR Wx By` (R219). -/
  | shrwb (x : WReg) (y : BReg)
  /-- `SAR Wx 1` (R220). -/
  | sarw1 (x : WReg)
  /-- `SAR Wx By` (R221). -/
  | sarwb (x : WReg) (y : BReg)
  /-- `ROR Wx 1` (R222). -/
  | rorw (x : WReg)
  /-- `ROL Wx 1` (R223). -/
  | rolw (x : WReg)
  /-- `SWP Wx Wy` (R224). -/
  | swpw (x y : WReg)
  -- Branching (43_branching.md)
  /-- `J relative_immediate` (R241). -/
  | jR (d : Byte)
  /-- `J absolute_immediate` (R242). -/
  | jA (imm : Word)
  /-- `JX Wx` (R243). -/
  | jX (x : WReg)
  /-- `C relative_immediate` (R244). -/
  | cR (d : Byte)
  /-- `C absolute_immediate` (R245). -/
  | cA (imm : Word)
  /-- `CX Wx` (R246). -/
  | cX (x : WReg)
  /-- `INT 1 to 16` (R247). -/
  | int (n : Nat)
  /-- `JE/JZ relative_immediate` (R248). -/
  | jz (d : Byte)
  /-- `JNE/JNZ relative_immediate` (R249). -/
  | jnz (d : Byte)
  /-- `JC/JAE relative_immediate` (R250). -/
  | jc (d : Byte)
  /-- `JNC/JB relative_immediate` (R251). -/
  | jnc (d : Byte)
  /-- `JN/JMI relative_immediate` (R252). -/
  | jn (d : Byte)
  /-- `JNN/JPZ relative_immediate` (R253). -/
  | jnn (d : Byte)
  /-- `JV relative_immediate` (R254). -/
  | jv (d : Byte)
  /-- `JNV relative_immediate` (R255). -/
  | jnv (d : Byte)
  /-- `JA relative_immediate` (R256). -/
  | ja (d : Byte)
  /-- `JBE relative_immediate` (R257). -/
  | jbe (d : Byte)
  /-- `JGE relative_immediate` (R258). -/
  | jge (d : Byte)
  /-- `JL relative_immediate` (R259). -/
  | jl (d : Byte)
  /-- `JG relative_immediate` (R260). -/
  | jg (d : Byte)
  /-- `JLE relative_immediate` (R261). -/
  | jle (d : Byte)
  /-- `RET` (R262). -/
  | ret
  /-- `IRET` (R263). -/
  | iret
  -- Misc (44_misc.md)
  /-- `NOP` (R281). -/
  | nop
  /-- `STI` (R282). -/
  | sti
  /-- `STC` (R283). -/
  | stc
  /-- `STZ` (R284). -/
  | stz
  /-- `STV` (R285). -/
  | stv
  /-- `STN` (R286). -/
  | stn
  /-- `CLI` (R287). -/
  | cli
  /-- `CLC` (R288). -/
  | clc
  /-- `CLZ` (R289). -/
  | clz
  /-- `CLV` (R290). -/
  | clv
  /-- `CLN` (R291). -/
  | cln
  /-- `LEA Wx SimmW` (R292). -/
  | lea (x : WReg) (imm : Word)
  deriving DecidableEq, Repr

end Sys2Proof
end

