-- ==== Sys2Proof/WellFormed.lean ====
section
/-! DEFINITION. Which terms of `Instr` are instructions. Register operands and immediates are legal at every value of
their types (spec 30_encoding.md R93); the one check is INT's vector number, 1 to 16 (R84, R247). -/

namespace Sys2Proof

/-- The check: `INT n` has n in 1..16; every other term is an instruction. -/
def Instr.wf : Instr → Bool
  | .ldbM0 _ _ => true
  | .ldwM0 _ _ => true
  | .srbM0 _ _ => true
  | .srwM0 _ _ => true
  | .ldbM1 _ _ => true
  | .ldwM1 _ _ => true
  | .srbM1 _ _ => true
  | .srwM1 _ _ => true
  | .ldbM2 _ _ _ => true
  | .ldwM2 _ _ _ => true
  | .srbM2 _ _ _ => true
  | .srwM2 _ _ _ => true
  | .ldbM3 _ _ => true
  | .ldwM3 _ _ => true
  | .srbM3 _ _ => true
  | .srwM3 _ _ => true
  | .ldbM4 _ _ _ => true
  | .ldwM4 _ _ _ => true
  | .srbM4 _ _ _ => true
  | .srwM4 _ _ _ => true
  | .pushf => true
  | .push _ => true
  | .popf => true
  | .pop _ => true
  | .movb _ _ => true
  | .movbi _ _ => true
  | .notb _ => true
  | .andb _ _ => true
  | .orb _ _ => true
  | .eorb _ _ => true
  | .negb _ => true
  | .incb _ => true
  | .decb _ => true
  | .addb _ _ => true
  | .subb _ _ => true
  | .adcb _ _ => true
  | .sbbb _ _ => true
  | .shlb1 _ => true
  | .shlb _ _ => true
  | .shrb1 _ => true
  | .shrb _ _ => true
  | .sarb1 _ => true
  | .sarb _ _ => true
  | .rorb _ => true
  | .rolb _ => true
  | .swpb _ _ => true
  | .movw _ _ => true
  | .movwi _ _ => true
  | .movsw _ => true
  | .movws _ => true
  | .notw _ => true
  | .andw _ _ => true
  | .orw _ _ => true
  | .eorw _ _ => true
  | .negw _ => true
  | .incw _ => true
  | .decw _ => true
  | .addw _ _ => true
  | .subw _ _ => true
  | .adcw _ _ => true
  | .sbbw _ _ => true
  | .shlw1 _ => true
  | .shlwb _ _ => true
  | .shrw1 _ => true
  | .shrwb _ _ => true
  | .sarw1 _ => true
  | .sarwb _ _ => true
  | .rorw _ => true
  | .rolw _ => true
  | .swpw _ _ => true
  | .jR _ => true
  | .jA _ => true
  | .jX _ => true
  | .cR _ => true
  | .cA _ => true
  | .cX _ => true
  | .int n => decide (1 ≤ n) && decide (n ≤ 16)
  | .jz _ => true
  | .jnz _ => true
  | .jc _ => true
  | .jnc _ => true
  | .jn _ => true
  | .jnn _ => true
  | .jv _ => true
  | .jnv _ => true
  | .ja _ => true
  | .jbe _ => true
  | .jge _ => true
  | .jl _ => true
  | .jg _ => true
  | .jle _ => true
  | .ret => true
  | .iret => true
  | .nop => true
  | .sti => true
  | .stc => true
  | .stz => true
  | .stv => true
  | .stn => true
  | .cli => true
  | .clc => true
  | .clz => true
  | .clv => true
  | .cln => true
  | .lea _ _ => true

end Sys2Proof
end

