-- ==== Sys2Proof/Decode.lean ====
section
/-! DEFINITION. Decoding and encoding (spec 30_encoding.md). The opcode map `OPC` is a parameter (R90, D1): `decodeWith`
and `encodeWith` take it, `decode` and `encode` use the default map `opcodeByte`. Decoding is total (R96): bytes give an
instruction and the bytes left over, or a rejection with its reason. -/

namespace Sys2Proof

/-- The five addressing modes of the memory transfers (R85). -/
inductive Mode where
  | m0 | m1 | m2 | m3 | m4
  deriving DecidableEq, Repr

/-- The 3-bit code of a mode (R85). -/
def Mode.code : Mode → BitVec 3
  | .m0 => 0b000
  | .m1 => 0b001
  | .m2 => 0b010
  | .m3 => 0b011
  | .m4 => 0b100

/-- The names of the 120 opcodes (R3, R81): the transfers carry their mode, INT its field `vector - 1`. -/
inductive Op where
  | ldb (m : Mode)
  | ldw (m : Mode)
  | srb (m : Mode)
  | srw (m : Mode)
  | pushf
  | push
  | popf
  | pop
  | movb
  | movbi
  | notb
  | andb
  | orb
  | eorb
  | negb
  | incb
  | decb
  | addb
  | subb
  | adcb
  | sbbb
  | shlb1
  | shlb
  | shrb1
  | shrb
  | sarb1
  | sarb
  | rorb
  | rolb
  | swpb
  | movw
  | movwi
  | movsw
  | movws
  | notw
  | andw
  | orw
  | eorw
  | negw
  | incw
  | decw
  | addw
  | subw
  | adcw
  | sbbw
  | shlw1
  | shlwb
  | shrw1
  | shrwb
  | sarw1
  | sarwb
  | rorw
  | rolw
  | swpw
  | jR
  | jA
  | jX
  | cR
  | cA
  | cX
  | int (v : BitVec 4)
  | jz
  | jnz
  | jc
  | jnc
  | jn
  | jnn
  | jv
  | jnv
  | ja
  | jbe
  | jge
  | jl
  | jg
  | jle
  | ret
  | iret
  | nop
  | sti
  | stc
  | stz
  | stv
  | stn
  | cli
  | clc
  | clz
  | clv
  | cln
  | lea
  deriving DecidableEq, Repr

/-- The default opcode map `OPC` (R90). DESIGN CHOICE: the spec leaves the numbers open with this default (log 6). -/
def opcodeByte : Op → Byte
  | .ldb m => 0b00000#5 ++ m.code
  | .ldw m => 0b00001#5 ++ m.code
  | .srb m => 0b00010#5 ++ m.code
  | .srw m => 0b00011#5 ++ m.code
  | .pushf => 0x20
  | .push => 0x21
  | .popf => 0x22
  | .pop => 0x23
  | .movb => 0x30
  | .movbi => 0x31
  | .notb => 0x32
  | .andb => 0x33
  | .orb => 0x34
  | .eorb => 0x35
  | .negb => 0x36
  | .incb => 0x37
  | .decb => 0x38
  | .addb => 0x39
  | .subb => 0x3A
  | .adcb => 0x3B
  | .sbbb => 0x3C
  | .shlb1 => 0x3D
  | .shlb => 0x3E
  | .shrb1 => 0x3F
  | .shrb => 0x40
  | .sarb1 => 0x41
  | .sarb => 0x42
  | .rorb => 0x43
  | .rolb => 0x44
  | .swpb => 0x45
  | .movw => 0x50
  | .movwi => 0x51
  | .movsw => 0x52
  | .movws => 0x53
  | .notw => 0x54
  | .andw => 0x55
  | .orw => 0x56
  | .eorw => 0x57
  | .negw => 0x58
  | .incw => 0x59
  | .decw => 0x5A
  | .addw => 0x5B
  | .subw => 0x5C
  | .adcw => 0x5D
  | .sbbw => 0x5E
  | .shlw1 => 0x5F
  | .shlwb => 0x60
  | .shrw1 => 0x61
  | .shrwb => 0x62
  | .sarw1 => 0x63
  | .sarwb => 0x64
  | .rorw => 0x65
  | .rolw => 0x66
  | .swpw => 0x67
  | .jR => 0x70
  | .jA => 0x71
  | .jX => 0x72
  | .cR => 0x73
  | .cA => 0x74
  | .cX => 0x75
  | .int v => 0b1000#4 ++ v
  | .jz => 0x90
  | .jnz => 0x91
  | .jc => 0x92
  | .jnc => 0x93
  | .jn => 0x94
  | .jnn => 0x95
  | .jv => 0x96
  | .jnv => 0x97
  | .ja => 0x98
  | .jbe => 0x99
  | .jge => 0x9A
  | .jl => 0x9B
  | .jg => 0x9C
  | .jle => 0x9D
  | .ret => 0xA0
  | .iret => 0xA1
  | .nop => 0xB0
  | .sti => 0xB1
  | .stc => 0xB2
  | .stz => 0xB3
  | .stv => 0xB4
  | .stn => 0xB5
  | .cli => 0xB6
  | .clc => 0xB7
  | .clz => 0xB8
  | .clv => 0xB9
  | .cln => 0xBA
  | .lea => 0xBB

/-- The five modes of one transfer name. -/
def Op.modes (f : Mode → Op) : List Op := [f .m0, f .m1, f .m2, f .m3, f .m4]

/-- The transfer group's 24 opcodes (R3). -/
def Op.transferOps : List Op :=
  Op.modes .ldb ++ Op.modes .ldw ++ Op.modes .srb ++ Op.modes .srw ++ [.pushf, .push, .popf, .pop]

/-- The 22 byte forms of the register-transform group (R3). -/
def Op.byteOps : List Op := [
    .movb, .movbi, .notb, .andb, .orb, .eorb, .negb, .incb, .decb, .addb, .subb, .adcb,
    .sbbb, .shlb1, .shlb, .shrb1, .shrb, .sarb1, .sarb, .rorb, .rolb, .swpb]

/-- The 24 word forms of the register-transform group (R3). -/
def Op.wordOps : List Op := [
    .movw, .movwi, .movsw, .movws, .notw, .andw, .orw, .eorw, .negw, .incw, .decw, .addw,
    .subw, .adcw, .sbbw, .shlw1, .shlwb, .shrw1, .shrwb, .sarw1, .sarwb, .rorw, .rolw, .swpw]

/-- The sixteen INT opcodes (R81). -/
def Op.intOps : List Op := [
    .int 0, .int 1, .int 2, .int 3, .int 4, .int 5, .int 6, .int 7,
    .int 8, .int 9, .int 10, .int 11, .int 12, .int 13, .int 14, .int 15]

/-- The branching group's other 22 opcodes (R3). -/
def Op.branchOps : List Op := [
    .jR, .jA, .jX, .cR, .cA, .cX, .jz, .jnz, .jc, .jnc, .jn, .jnn,
    .jv, .jnv, .ja, .jbe, .jge, .jl, .jg, .jle, .ret, .iret]

/-- The Misc group's 12 opcodes (R3). -/
def Op.miscOps : List Op := [
    .nop, .sti, .stc, .stz, .stv, .stn, .cli, .clc, .clz, .clv, .cln, .lea]

/-- All 120 opcodes (R3). -/
def Op.all : List Op :=
  Op.transferOps ++ Op.byteOps ++ Op.wordOps ++ Op.intOps ++ Op.branchOps ++ Op.miscOps

/-- The seven instruction formats (R80). -/
inductive Format where
  | op | opv | opR | opS8 | opI16 | opRI8 | opRI16
  deriving DecidableEq, Repr

/-- The length in bytes of a format (R80, R95). -/
def Format.length : Format → Nat
  | .op => 1
  | .opv => 1
  | .opR => 2
  | .opS8 => 2
  | .opI16 => 3
  | .opRI8 => 3
  | .opRI16 => 4

/-- The nine register-byte layouts (R82), and none. -/
inductive Layout where
  | none | rb | rw | rbb | rww | rwb | tb1 | tw1 | tb2 | tw2
  deriving DecidableEq, Repr

/-- The reserved bits of a register byte: the positions the source prints as 0 (R92 (c)). -/
def Layout.reserved : Layout → Byte
  | .none => 0b00000000
  | .rb   => 0b11111000
  | .rw   => 0b11111100
  | .rbb  => 0b10001000
  | .rww  => 0b11001100
  | .rwb  => 0b10001100
  | .tb1  => 0b11001000
  | .tw1  => 0b11001100
  | .tb2  => 0b00001000
  | .tw2  => 0b00001100

/-- The format of each opcode (R95). -/
def Op.format : Op → Format
  | .ldb .m0 => .opRI16
  | .ldb .m1 => .opR
  | .ldb .m2 => .opRI16
  | .ldb .m3 => .opR
  | .ldb .m4 => .opR
  | .ldw .m0 => .opRI16
  | .ldw .m1 => .opR
  | .ldw .m2 => .opRI16
  | .ldw .m3 => .opR
  | .ldw .m4 => .opR
  | .srb .m0 => .opRI16
  | .srb .m1 => .opR
  | .srb .m2 => .opRI16
  | .srb .m3 => .opR
  | .srb .m4 => .opR
  | .srw .m0 => .opRI16
  | .srw .m1 => .opR
  | .srw .m2 => .opRI16
  | .srw .m3 => .opR
  | .srw .m4 => .opR
  | .pushf => .op
  | .push => .opR
  | .popf => .op
  | .pop => .opR
  | .movb => .opR
  | .movbi => .opRI8
  | .notb => .opR
  | .andb => .opR
  | .orb => .opR
  | .eorb => .opR
  | .negb => .opR
  | .incb => .opR
  | .decb => .opR
  | .addb => .opR
  | .subb => .opR
  | .adcb => .opR
  | .sbbb => .opR
  | .shlb1 => .opR
  | .shlb => .opR
  | .shrb1 => .opR
  | .shrb => .opR
  | .sarb1 => .opR
  | .sarb => .opR
  | .rorb => .opR
  | .rolb => .opR
  | .swpb => .opR
  | .movw => .opR
  | .movwi => .opRI16
  | .movsw => .opR
  | .movws => .opR
  | .notw => .opR
  | .andw => .opR
  | .orw => .opR
  | .eorw => .opR
  | .negw => .opR
  | .incw => .opR
  | .decw => .opR
  | .addw => .opR
  | .subw => .opR
  | .adcw => .opR
  | .sbbw => .opR
  | .shlw1 => .opR
  | .shlwb => .opR
  | .shrw1 => .opR
  | .shrwb => .opR
  | .sarw1 => .opR
  | .sarwb => .opR
  | .rorw => .opR
  | .rolw => .opR
  | .swpw => .opR
  | .jR => .opS8
  | .jA => .opI16
  | .jX => .opR
  | .cR => .opS8
  | .cA => .opI16
  | .cX => .opR
  | .int _ => .opv
  | .jz => .opS8
  | .jnz => .opS8
  | .jc => .opS8
  | .jnc => .opS8
  | .jn => .opS8
  | .jnn => .opS8
  | .jv => .opS8
  | .jnv => .opS8
  | .ja => .opS8
  | .jbe => .opS8
  | .jge => .opS8
  | .jl => .opS8
  | .jg => .opS8
  | .jle => .opS8
  | .ret => .op
  | .iret => .op
  | .nop => .op
  | .sti => .op
  | .stc => .op
  | .stz => .op
  | .stv => .op
  | .stn => .op
  | .cli => .op
  | .clc => .op
  | .clz => .op
  | .clv => .op
  | .cln => .op
  | .lea => .opRI16

/-- The register-byte layout of each opcode (R83, R89). -/
def Op.layout : Op → Layout
  | .ldb .m0 => .rb
  | .ldb .m1 => .tb1
  | .ldb .m2 => .tb1
  | .ldb .m3 => .tb1
  | .ldb .m4 => .tb2
  | .ldw .m0 => .rw
  | .ldw .m1 => .tw1
  | .ldw .m2 => .tw1
  | .ldw .m3 => .tw1
  | .ldw .m4 => .tw2
  | .srb .m0 => .rb
  | .srb .m1 => .tb1
  | .srb .m2 => .tb1
  | .srb .m3 => .tb1
  | .srb .m4 => .tb2
  | .srw .m0 => .rw
  | .srw .m1 => .tw1
  | .srw .m2 => .tw1
  | .srw .m3 => .tw1
  | .srw .m4 => .tw2
  | .pushf => .none
  | .push => .rw
  | .popf => .none
  | .pop => .rw
  | .movb => .rbb
  | .movbi => .rb
  | .notb => .rb
  | .andb => .rbb
  | .orb => .rbb
  | .eorb => .rbb
  | .negb => .rb
  | .incb => .rb
  | .decb => .rb
  | .addb => .rbb
  | .subb => .rbb
  | .adcb => .rbb
  | .sbbb => .rbb
  | .shlb1 => .rb
  | .shlb => .rbb
  | .shrb1 => .rb
  | .shrb => .rbb
  | .sarb1 => .rb
  | .sarb => .rbb
  | .rorb => .rb
  | .rolb => .rb
  | .swpb => .rbb
  | .movw => .rww
  | .movwi => .rw
  | .movsw => .rw
  | .movws => .rw
  | .notw => .rw
  | .andw => .rww
  | .orw => .rww
  | .eorw => .rww
  | .negw => .rw
  | .incw => .rw
  | .decw => .rw
  | .addw => .rww
  | .subw => .rww
  | .adcw => .rww
  | .sbbw => .rww
  | .shlw1 => .rw
  | .shlwb => .rwb
  | .shrw1 => .rw
  | .shrwb => .rwb
  | .sarw1 => .rw
  | .sarwb => .rwb
  | .rorw => .rw
  | .rolw => .rw
  | .swpw => .rww
  | .jR => .none
  | .jA => .none
  | .jX => .rw
  | .cR => .none
  | .cA => .none
  | .cX => .rw
  | .int _ => .none
  | .jz => .none
  | .jnz => .none
  | .jc => .none
  | .jnc => .none
  | .jn => .none
  | .jnn => .none
  | .jv => .none
  | .jnv => .none
  | .ja => .none
  | .jbe => .none
  | .jge => .none
  | .jl => .none
  | .jg => .none
  | .jle => .none
  | .ret => .none
  | .iret => .none
  | .nop => .none
  | .sti => .none
  | .stc => .none
  | .stz => .none
  | .stv => .none
  | .stn => .none
  | .cli => .none
  | .clc => .none
  | .clz => .none
  | .clv => .none
  | .cln => .none
  | .lea => .rw

/-- The number of a B register (R22). -/
def BReg.code : BReg → BitVec 3
  | .b0 => 0 | .b1 => 1 | .b2 => 2 | .b3 => 3 | .b4 => 4 | .b5 => 5 | .b6 => 6 | .b7 => 7

/-- The B register a 3-bit field selects (R22). -/
def BReg.ofCode (k : BitVec 3) : BReg :=
  match k.toNat with
  | 0 => .b0 | 1 => .b1 | 2 => .b2 | 3 => .b3 | 4 => .b4 | 5 => .b5 | 6 => .b6 | _ => .b7

/-- The number of a W register (R22). -/
def WReg.code : WReg → BitVec 2
  | .w0 => 0 | .w1 => 1 | .w2 => 2 | .w3 => 3

/-- The W register a 2-bit field selects (R22). -/
def WReg.ofCode (k : BitVec 2) : WReg :=
  match k.toNat with
  | 0 => .w0 | 1 => .w1 | 2 => .w2 | _ => .w3

/-- A 16-bit immediate from its two data bytes, low byte first (R84, R52). -/
def immWord (lo hi : Byte) : Word := hi ++ lo

/-- The byte of a 16-bit immediate stored first (R84). -/
def immLow (w : Word) : Byte := w.extractLsb' 0 8

/-- The byte of a 16-bit immediate stored second (R84). -/
def immHigh (w : Word) : Byte := w.extractLsb' 8 8

/-- The field x of a register byte, as a B register: bits 2:0 (R82). -/
def fieldXB (r : Byte) : BReg := BReg.ofCode (r.extractLsb' 0 3)

/-- The field x of a register byte, as a W register: bits 1:0 (R82). -/
def fieldXW (r : Byte) : WReg := WReg.ofCode (r.extractLsb' 0 2)

/-- The field y of RBB and RWB: a B register, bits 6:4 (R82). -/
def fieldYB (r : Byte) : BReg := BReg.ofCode (r.extractLsb' 4 3)

/-- The W register in bits 5:4: y of RWW, TB1 and TW1, z of TB2 and TW2 (R82). -/
def fieldW54 (r : Byte) : WReg := WReg.ofCode (r.extractLsb' 4 2)

/-- The W register in bits 7:6: y of TB2 and TW2 (R82). -/
def fieldW76 (r : Byte) : WReg := WReg.ofCode (r.extractLsb' 6 2)

/-- The instruction an opcode stands for, given its register byte `r` and its data `w` (an 8-bit datum in the low half).
Operands as in R82, R84 and R86. -/
def Op.instr (r : Byte) (w : Word) : Op → Instr
  | .ldb .m0 => .ldbM0 (fieldXB r) w
  | .ldb .m1 => .ldbM1 (fieldXB r) (fieldW54 r)
  | .ldb .m2 => .ldbM2 (fieldXB r) (fieldW54 r) w
  | .ldb .m3 => .ldbM3 (fieldXB r) (fieldW54 r)
  | .ldb .m4 => .ldbM4 (fieldXB r) (fieldW76 r) (fieldW54 r)
  | .ldw .m0 => .ldwM0 (fieldXW r) w
  | .ldw .m1 => .ldwM1 (fieldXW r) (fieldW54 r)
  | .ldw .m2 => .ldwM2 (fieldXW r) (fieldW54 r) w
  | .ldw .m3 => .ldwM3 (fieldXW r) (fieldW54 r)
  | .ldw .m4 => .ldwM4 (fieldXW r) (fieldW76 r) (fieldW54 r)
  | .srb .m0 => .srbM0 (fieldXB r) w
  | .srb .m1 => .srbM1 (fieldXB r) (fieldW54 r)
  | .srb .m2 => .srbM2 (fieldXB r) (fieldW54 r) w
  | .srb .m3 => .srbM3 (fieldXB r) (fieldW54 r)
  | .srb .m4 => .srbM4 (fieldXB r) (fieldW76 r) (fieldW54 r)
  | .srw .m0 => .srwM0 (fieldXW r) w
  | .srw .m1 => .srwM1 (fieldXW r) (fieldW54 r)
  | .srw .m2 => .srwM2 (fieldXW r) (fieldW54 r) w
  | .srw .m3 => .srwM3 (fieldXW r) (fieldW54 r)
  | .srw .m4 => .srwM4 (fieldXW r) (fieldW76 r) (fieldW54 r)
  | .pushf => .pushf
  | .push => .push (fieldXW r)
  | .popf => .popf
  | .pop => .pop (fieldXW r)
  | .movb => .movb (fieldXB r) (fieldYB r)
  | .movbi => .movbi (fieldXB r) (immLow w)
  | .notb => .notb (fieldXB r)
  | .andb => .andb (fieldXB r) (fieldYB r)
  | .orb => .orb (fieldXB r) (fieldYB r)
  | .eorb => .eorb (fieldXB r) (fieldYB r)
  | .negb => .negb (fieldXB r)
  | .incb => .incb (fieldXB r)
  | .decb => .decb (fieldXB r)
  | .addb => .addb (fieldXB r) (fieldYB r)
  | .subb => .subb (fieldXB r) (fieldYB r)
  | .adcb => .adcb (fieldXB r) (fieldYB r)
  | .sbbb => .sbbb (fieldXB r) (fieldYB r)
  | .shlb1 => .shlb1 (fieldXB r)
  | .shlb => .shlb (fieldXB r) (fieldYB r)
  | .shrb1 => .shrb1 (fieldXB r)
  | .shrb => .shrb (fieldXB r) (fieldYB r)
  | .sarb1 => .sarb1 (fieldXB r)
  | .sarb => .sarb (fieldXB r) (fieldYB r)
  | .rorb => .rorb (fieldXB r)
  | .rolb => .rolb (fieldXB r)
  | .swpb => .swpb (fieldXB r) (fieldYB r)
  | .movw => .movw (fieldXW r) (fieldW54 r)
  | .movwi => .movwi (fieldXW r) w
  | .movsw => .movsw (fieldXW r)
  | .movws => .movws (fieldXW r)
  | .notw => .notw (fieldXW r)
  | .andw => .andw (fieldXW r) (fieldW54 r)
  | .orw => .orw (fieldXW r) (fieldW54 r)
  | .eorw => .eorw (fieldXW r) (fieldW54 r)
  | .negw => .negw (fieldXW r)
  | .incw => .incw (fieldXW r)
  | .decw => .decw (fieldXW r)
  | .addw => .addw (fieldXW r) (fieldW54 r)
  | .subw => .subw (fieldXW r) (fieldW54 r)
  | .adcw => .adcw (fieldXW r) (fieldW54 r)
  | .sbbw => .sbbw (fieldXW r) (fieldW54 r)
  | .shlw1 => .shlw1 (fieldXW r)
  | .shlwb => .shlwb (fieldXW r) (fieldYB r)
  | .shrw1 => .shrw1 (fieldXW r)
  | .shrwb => .shrwb (fieldXW r) (fieldYB r)
  | .sarw1 => .sarw1 (fieldXW r)
  | .sarwb => .sarwb (fieldXW r) (fieldYB r)
  | .rorw => .rorw (fieldXW r)
  | .rolw => .rolw (fieldXW r)
  | .swpw => .swpw (fieldXW r) (fieldW54 r)
  | .jR => .jR (immLow w)
  | .jA => .jA w
  | .jX => .jX (fieldXW r)
  | .cR => .cR (immLow w)
  | .cA => .cA w
  | .cX => .cX (fieldXW r)
  | .int v => .int (v.toNat + 1)
  | .jz => .jz (immLow w)
  | .jnz => .jnz (immLow w)
  | .jc => .jc (immLow w)
  | .jnc => .jnc (immLow w)
  | .jn => .jn (immLow w)
  | .jnn => .jnn (immLow w)
  | .jv => .jv (immLow w)
  | .jnv => .jnv (immLow w)
  | .ja => .ja (immLow w)
  | .jbe => .jbe (immLow w)
  | .jge => .jge (immLow w)
  | .jl => .jl (immLow w)
  | .jg => .jg (immLow w)
  | .jle => .jle (immLow w)
  | .ret => .ret
  | .iret => .iret
  | .nop => .nop
  | .sti => .sti
  | .stc => .stc
  | .stz => .stz
  | .stv => .stv
  | .stn => .stn
  | .cli => .cli
  | .clc => .clc
  | .clz => .clz
  | .clv => .clv
  | .cln => .cln
  | .lea => .lea (fieldXW r) w

/-- Why bytes are no instruction. The first two are the model-level fault `IllegalInstruction` (R92, R97); the third
says that the bytes end inside the instruction, which a fetch from memory never meets. -/
inductive DecodeReject where
  | undefinedOpcode (b0 : Byte)
  | reservedBits (b0 b1 : Byte)
  | truncated
  deriving DecidableEq, Repr

/-- The bytes a rejection has read, first byte first (R97, R305). -/
def DecodeReject.bytes : DecodeReject → List Byte
  | .undefinedOpcode b0 => [b0]
  | .reservedBits b0 b1 => [b0, b1]
  | .truncated => []

/-- What decoding answers: an instruction and the bytes after it, or a rejection. -/
inductive Decoded where
  | ok (i : Instr) (rest : List Byte)
  | reject (r : DecodeReject)
  deriving DecidableEq, Repr

/-- The opcode whose byte is `b` under the map `opc`, if there is one (R96). -/
def opOfByte (opc : Op → Byte) (b : Byte) : Option Op :=
  Op.all.find? (fun o => decide (opc o = b))

/-- The operands of opcode `o` (whose byte was `b0`) from the bytes after it, in byte order: the register byte is
checked before the data is read (R96, R305). -/
def decodeOperands (o : Op) (b0 : Byte) (bs : List Byte) : Decoded :=
  match o.format with
  | .op => .ok (o.instr 0 0) bs
  | .opv => .ok (o.instr 0 0) bs
  | .opS8 =>
    match bs with
    | d :: rest => .ok (o.instr 0 (immWord d 0)) rest
    | [] => .reject .truncated
  | .opI16 =>
    match bs with
    | lo :: hi :: rest => .ok (o.instr 0 (immWord lo hi)) rest
    | _ => .reject .truncated
  | .opR =>
    match bs with
    | r :: rest => if r &&& o.layout.reserved = 0 then .ok (o.instr r 0) rest else .reject (.reservedBits b0 r)
    | [] => .reject .truncated
  | .opRI8 =>
    match bs with
    | r :: rest =>
      if r &&& o.layout.reserved = 0 then
        match rest with
        | d :: rest' => .ok (o.instr r (immWord d 0)) rest'
        | [] => .reject .truncated
      else .reject (.reservedBits b0 r)
    | [] => .reject .truncated
  | .opRI16 =>
    match bs with
    | r :: rest =>
      if r &&& o.layout.reserved = 0 then
        match rest with
        | lo :: hi :: rest' => .ok (o.instr r (immWord lo hi)) rest'
        | _ => .reject .truncated
      else .reject (.reservedBits b0 r)
    | [] => .reject .truncated

/-- Decoding under an opcode map (R96). -/
def decodeWith (opc : Op → Byte) : List Byte → Decoded
  | [] => .reject .truncated
  | b0 :: bs =>
    match opOfByte opc b0 with
    | none => .reject (.undefinedOpcode b0)
    | some o => decodeOperands o b0 bs

/-- Decoding under the default map (R90, R96). -/
def decode (bs : List Byte) : Decoded := decodeWith opcodeByte bs

/-! The encoder, written from the same tables (R80, R82, R83, R84). -/

/-- The opcode of an instruction. INT's field is the vector number minus one (R81). -/
def Instr.op : Instr → Op
  | .ldbM0 _ _ => .ldb .m0
  | .ldwM0 _ _ => .ldw .m0
  | .srbM0 _ _ => .srb .m0
  | .srwM0 _ _ => .srw .m0
  | .ldbM1 _ _ => .ldb .m1
  | .ldwM1 _ _ => .ldw .m1
  | .srbM1 _ _ => .srb .m1
  | .srwM1 _ _ => .srw .m1
  | .ldbM2 _ _ _ => .ldb .m2
  | .ldwM2 _ _ _ => .ldw .m2
  | .srbM2 _ _ _ => .srb .m2
  | .srwM2 _ _ _ => .srw .m2
  | .ldbM3 _ _ => .ldb .m3
  | .ldwM3 _ _ => .ldw .m3
  | .srbM3 _ _ => .srb .m3
  | .srwM3 _ _ => .srw .m3
  | .ldbM4 _ _ _ => .ldb .m4
  | .ldwM4 _ _ _ => .ldw .m4
  | .srbM4 _ _ _ => .srb .m4
  | .srwM4 _ _ _ => .srw .m4
  | .pushf => .pushf
  | .push _ => .push
  | .popf => .popf
  | .pop _ => .pop
  | .movb _ _ => .movb
  | .movbi _ _ => .movbi
  | .notb _ => .notb
  | .andb _ _ => .andb
  | .orb _ _ => .orb
  | .eorb _ _ => .eorb
  | .negb _ => .negb
  | .incb _ => .incb
  | .decb _ => .decb
  | .addb _ _ => .addb
  | .subb _ _ => .subb
  | .adcb _ _ => .adcb
  | .sbbb _ _ => .sbbb
  | .shlb1 _ => .shlb1
  | .shlb _ _ => .shlb
  | .shrb1 _ => .shrb1
  | .shrb _ _ => .shrb
  | .sarb1 _ => .sarb1
  | .sarb _ _ => .sarb
  | .rorb _ => .rorb
  | .rolb _ => .rolb
  | .swpb _ _ => .swpb
  | .movw _ _ => .movw
  | .movwi _ _ => .movwi
  | .movsw _ => .movsw
  | .movws _ => .movws
  | .notw _ => .notw
  | .andw _ _ => .andw
  | .orw _ _ => .orw
  | .eorw _ _ => .eorw
  | .negw _ => .negw
  | .incw _ => .incw
  | .decw _ => .decw
  | .addw _ _ => .addw
  | .subw _ _ => .subw
  | .adcw _ _ => .adcw
  | .sbbw _ _ => .sbbw
  | .shlw1 _ => .shlw1
  | .shlwb _ _ => .shlwb
  | .shrw1 _ => .shrw1
  | .shrwb _ _ => .shrwb
  | .sarw1 _ => .sarw1
  | .sarwb _ _ => .sarwb
  | .rorw _ => .rorw
  | .rolw _ => .rolw
  | .swpw _ _ => .swpw
  | .jR _ => .jR
  | .jA _ => .jA
  | .jX _ => .jX
  | .cR _ => .cR
  | .cA _ => .cA
  | .cX _ => .cX
  | .int n => .int (BitVec.ofNat 4 (n - 1))
  | .jz _ => .jz
  | .jnz _ => .jnz
  | .jc _ => .jc
  | .jnc _ => .jnc
  | .jn _ => .jn
  | .jnn _ => .jnn
  | .jv _ => .jv
  | .jnv _ => .jnv
  | .ja _ => .ja
  | .jbe _ => .jbe
  | .jge _ => .jge
  | .jl _ => .jl
  | .jg _ => .jg
  | .jle _ => .jle
  | .ret => .ret
  | .iret => .iret
  | .nop => .nop
  | .sti => .sti
  | .stc => .stc
  | .stz => .stz
  | .stv => .stv
  | .stn => .stn
  | .cli => .cli
  | .clc => .clc
  | .clz => .clz
  | .clv => .clv
  | .cln => .cln
  | .lea _ _ => .lea

/-- The register byte of an instruction, written as the strings of R82 are; 0 where it has none. -/
def Instr.regByte : Instr → Byte
  | .ldbM0 x _ => 0#5 ++ x.code
  | .ldwM0 x _ => 0#6 ++ x.code
  | .srbM0 x _ => 0#5 ++ x.code
  | .srwM0 x _ => 0#6 ++ x.code
  | .ldbM1 x y => 0#2 ++ y.code ++ 0#1 ++ x.code
  | .ldwM1 x y => 0#2 ++ y.code ++ 0#2 ++ x.code
  | .srbM1 x y => 0#2 ++ y.code ++ 0#1 ++ x.code
  | .srwM1 x y => 0#2 ++ y.code ++ 0#2 ++ x.code
  | .ldbM2 x y _ => 0#2 ++ y.code ++ 0#1 ++ x.code
  | .ldwM2 x y _ => 0#2 ++ y.code ++ 0#2 ++ x.code
  | .srbM2 x y _ => 0#2 ++ y.code ++ 0#1 ++ x.code
  | .srwM2 x y _ => 0#2 ++ y.code ++ 0#2 ++ x.code
  | .ldbM3 x y => 0#2 ++ y.code ++ 0#1 ++ x.code
  | .ldwM3 x y => 0#2 ++ y.code ++ 0#2 ++ x.code
  | .srbM3 x y => 0#2 ++ y.code ++ 0#1 ++ x.code
  | .srwM3 x y => 0#2 ++ y.code ++ 0#2 ++ x.code
  | .ldbM4 x y z => y.code ++ z.code ++ 0#1 ++ x.code
  | .ldwM4 x y z => y.code ++ z.code ++ 0#2 ++ x.code
  | .srbM4 x y z => y.code ++ z.code ++ 0#1 ++ x.code
  | .srwM4 x y z => y.code ++ z.code ++ 0#2 ++ x.code
  | .pushf => 0
  | .push x => 0#6 ++ x.code
  | .popf => 0
  | .pop x => 0#6 ++ x.code
  | .movb x y => 0#1 ++ y.code ++ 0#1 ++ x.code
  | .movbi x _ => 0#5 ++ x.code
  | .notb x => 0#5 ++ x.code
  | .andb x y => 0#1 ++ y.code ++ 0#1 ++ x.code
  | .orb x y => 0#1 ++ y.code ++ 0#1 ++ x.code
  | .eorb x y => 0#1 ++ y.code ++ 0#1 ++ x.code
  | .negb x => 0#5 ++ x.code
  | .incb x => 0#5 ++ x.code
  | .decb x => 0#5 ++ x.code
  | .addb x y => 0#1 ++ y.code ++ 0#1 ++ x.code
  | .subb x y => 0#1 ++ y.code ++ 0#1 ++ x.code
  | .adcb x y => 0#1 ++ y.code ++ 0#1 ++ x.code
  | .sbbb x y => 0#1 ++ y.code ++ 0#1 ++ x.code
  | .shlb1 x => 0#5 ++ x.code
  | .shlb x y => 0#1 ++ y.code ++ 0#1 ++ x.code
  | .shrb1 x => 0#5 ++ x.code
  | .shrb x y => 0#1 ++ y.code ++ 0#1 ++ x.code
  | .sarb1 x => 0#5 ++ x.code
  | .sarb x y => 0#1 ++ y.code ++ 0#1 ++ x.code
  | .rorb x => 0#5 ++ x.code
  | .rolb x => 0#5 ++ x.code
  | .swpb x y => 0#1 ++ y.code ++ 0#1 ++ x.code
  | .movw x y => 0#2 ++ y.code ++ 0#2 ++ x.code
  | .movwi x _ => 0#6 ++ x.code
  | .movsw x => 0#6 ++ x.code
  | .movws x => 0#6 ++ x.code
  | .notw x => 0#6 ++ x.code
  | .andw x y => 0#2 ++ y.code ++ 0#2 ++ x.code
  | .orw x y => 0#2 ++ y.code ++ 0#2 ++ x.code
  | .eorw x y => 0#2 ++ y.code ++ 0#2 ++ x.code
  | .negw x => 0#6 ++ x.code
  | .incw x => 0#6 ++ x.code
  | .decw x => 0#6 ++ x.code
  | .addw x y => 0#2 ++ y.code ++ 0#2 ++ x.code
  | .subw x y => 0#2 ++ y.code ++ 0#2 ++ x.code
  | .adcw x y => 0#2 ++ y.code ++ 0#2 ++ x.code
  | .sbbw x y => 0#2 ++ y.code ++ 0#2 ++ x.code
  | .shlw1 x => 0#6 ++ x.code
  | .shlwb x y => 0#1 ++ y.code ++ 0#2 ++ x.code
  | .shrw1 x => 0#6 ++ x.code
  | .shrwb x y => 0#1 ++ y.code ++ 0#2 ++ x.code
  | .sarw1 x => 0#6 ++ x.code
  | .sarwb x y => 0#1 ++ y.code ++ 0#2 ++ x.code
  | .rorw x => 0#6 ++ x.code
  | .rolw x => 0#6 ++ x.code
  | .swpw x y => 0#2 ++ y.code ++ 0#2 ++ x.code
  | .jR _ => 0
  | .jA _ => 0
  | .jX x => 0#6 ++ x.code
  | .cR _ => 0
  | .cA _ => 0
  | .cX x => 0#6 ++ x.code
  | .int _ => 0
  | .jz _ => 0
  | .jnz _ => 0
  | .jc _ => 0
  | .jnc _ => 0
  | .jn _ => 0
  | .jnn _ => 0
  | .jv _ => 0
  | .jnv _ => 0
  | .ja _ => 0
  | .jbe _ => 0
  | .jge _ => 0
  | .jl _ => 0
  | .jg _ => 0
  | .jle _ => 0
  | .ret => 0
  | .iret => 0
  | .nop => 0
  | .sti => 0
  | .stc => 0
  | .stz => 0
  | .stv => 0
  | .stn => 0
  | .cli => 0
  | .clc => 0
  | .clz => 0
  | .clv => 0
  | .cln => 0
  | .lea x _ => 0#6 ++ x.code

/-- The data of an instruction as a 16-bit value, an 8-bit datum in the low half; 0 where it has none (R84). -/
def Instr.data : Instr → Word
  | .ldbM0 _ imm => imm
  | .ldwM0 _ imm => imm
  | .srbM0 _ imm => imm
  | .srwM0 _ imm => imm
  | .ldbM1 _ _ => 0
  | .ldwM1 _ _ => 0
  | .srbM1 _ _ => 0
  | .srwM1 _ _ => 0
  | .ldbM2 _ _ imm => imm
  | .ldwM2 _ _ imm => imm
  | .srbM2 _ _ imm => imm
  | .srwM2 _ _ imm => imm
  | .ldbM3 _ _ => 0
  | .ldwM3 _ _ => 0
  | .srbM3 _ _ => 0
  | .srwM3 _ _ => 0
  | .ldbM4 _ _ _ => 0
  | .ldwM4 _ _ _ => 0
  | .srbM4 _ _ _ => 0
  | .srwM4 _ _ _ => 0
  | .pushf => 0
  | .push _ => 0
  | .popf => 0
  | .pop _ => 0
  | .movb _ _ => 0
  | .movbi _ imm => immWord imm 0
  | .notb _ => 0
  | .andb _ _ => 0
  | .orb _ _ => 0
  | .eorb _ _ => 0
  | .negb _ => 0
  | .incb _ => 0
  | .decb _ => 0
  | .addb _ _ => 0
  | .subb _ _ => 0
  | .adcb _ _ => 0
  | .sbbb _ _ => 0
  | .shlb1 _ => 0
  | .shlb _ _ => 0
  | .shrb1 _ => 0
  | .shrb _ _ => 0
  | .sarb1 _ => 0
  | .sarb _ _ => 0
  | .rorb _ => 0
  | .rolb _ => 0
  | .swpb _ _ => 0
  | .movw _ _ => 0
  | .movwi _ imm => imm
  | .movsw _ => 0
  | .movws _ => 0
  | .notw _ => 0
  | .andw _ _ => 0
  | .orw _ _ => 0
  | .eorw _ _ => 0
  | .negw _ => 0
  | .incw _ => 0
  | .decw _ => 0
  | .addw _ _ => 0
  | .subw _ _ => 0
  | .adcw _ _ => 0
  | .sbbw _ _ => 0
  | .shlw1 _ => 0
  | .shlwb _ _ => 0
  | .shrw1 _ => 0
  | .shrwb _ _ => 0
  | .sarw1 _ => 0
  | .sarwb _ _ => 0
  | .rorw _ => 0
  | .rolw _ => 0
  | .swpw _ _ => 0
  | .jR d => immWord d 0
  | .jA imm => imm
  | .jX _ => 0
  | .cR d => immWord d 0
  | .cA imm => imm
  | .cX _ => 0
  | .int _ => 0
  | .jz d => immWord d 0
  | .jnz d => immWord d 0
  | .jc d => immWord d 0
  | .jnc d => immWord d 0
  | .jn d => immWord d 0
  | .jnn d => immWord d 0
  | .jv d => immWord d 0
  | .jnv d => immWord d 0
  | .ja d => immWord d 0
  | .jbe d => immWord d 0
  | .jge d => immWord d 0
  | .jl d => immWord d 0
  | .jg d => immWord d 0
  | .jle d => immWord d 0
  | .ret => 0
  | .iret => 0
  | .nop => 0
  | .sti => 0
  | .stc => 0
  | .stz => 0
  | .stv => 0
  | .stn => 0
  | .cli => 0
  | .clc => 0
  | .clz => 0
  | .clv => 0
  | .cln => 0
  | .lea _ imm => imm

/-- The bytes of an instruction in memory order under an opcode map (R80). -/
def encodeWith (opc : Op → Byte) (i : Instr) : List Byte :=
  match i.op.format with
  | .op => [opc i.op]
  | .opv => [opc i.op]
  | .opR => [opc i.op, i.regByte]
  | .opS8 => [opc i.op, immLow i.data]
  | .opI16 => [opc i.op, immLow i.data, immHigh i.data]
  | .opRI8 => [opc i.op, i.regByte, immLow i.data]
  | .opRI16 => [opc i.op, i.regByte, immLow i.data, immHigh i.data]

/-- The bytes of an instruction under the default map (R80, R90). -/
def encode (i : Instr) : List Byte := encodeWith opcodeByte i

/-- The length in bytes of an instruction (R95). -/
def Instr.length (i : Instr) : Nat := i.op.format.length

/-- Byte `k` of the number `w`, byte 0 the least significant. -/
def byteOf (w k : Nat) : Byte := BitVec.ofNat 8 (w / 2 ^ (8 * k))

/-- The four bytes in memory order of an instruction numbered as spec/opcode_table.json numbers it: `w` gives the
`nbits` low bits, first byte lowest, and every bit above them is 0 (R101). -/
def tableBytes (nbits w : Nat) : List Byte :=
  let v := w % 2 ^ nbits
  [byteOf v 0, byteOf v 1, byteOf v 2, byteOf v 3]

/-- The instruction the decoder reads from a table word, `none` where it rejects it. -/
def decodeTableWord (nbits w : Nat) : Option Instr :=
  match decode (tableBytes nbits w) with
  | .ok i _ => some i
  | .reject _ => none

/-- What R91 asks of an opcode map: (1) the 120 bytes are pairwise different; (2) each transfer name carries its mode
code in bits 2:0 under one 5-bit value of its own, and the four values differ by (1); (3) INT carries its field in bits
3:0 under one 4-bit value; (4) no other opcode falls in the eight-value block of a transfer or the sixteen-value block
of INT. -/
structure OpcLegal (opc : Op → Byte) : Prop where
  distinct : ∀ o o' : Op, opc o = opc o' → o = o'
  transferBlock : ∀ f : Mode → Op, f ∈ [Op.ldb, Op.ldw, Op.srb, Op.srw] →
    ∃ p : BitVec 5, (∀ m : Mode, opc (f m) = p ++ m.code) ∧
      ∀ o : Op, (opc o).extractLsb' 3 5 = p → ∃ m : Mode, o = f m
  intBlock : ∃ p : BitVec 4, (∀ v : BitVec 4, opc (.int v) = p ++ v) ∧
    ∀ o : Op, (opc o).extractLsb' 4 4 = p → ∃ v : BitVec 4, o = .int v

end Sys2Proof
end

