-- ==== Sys2Proof/Machine/Ops.lean ====
section
/-! DEFINITION. The named operations on memory and registers: byte and word accesses (spec 20_memory.md), the register
overlay (10_state.md R21), the program counter (R25), the stack (R28), the flag image (R30), vector entry and return
(60_exceptions.md R302, R306), and the fetch (30_encoding.md R96). -/

namespace Sys2Proof.Machine

/-! Memory, one byte at a time. -/

/-- The byte at address `a`; an unlisted address reads as `Config.unwrittenByte` (R55, log 4). -/
def Memory.read : Memory → Nat → Byte
  | [], _ => Config.unwrittenByte
  | (k, b) :: m, a => if k = a then b else Memory.read m a

/-- The memory without an entry for `a`. -/
def Memory.eraseByte : Memory → Nat → Memory
  | [], _ => []
  | (k, b) :: m, a => if k = a then Memory.eraseByte m a else (k, b) :: Memory.eraseByte m a

/-- The memory with the entry `(a, v)` put before the first larger address. -/
def Memory.insertByte : Memory → Nat → Byte → Memory
  | [], a, v => [(a, v)]
  | (k, b) :: m, a, v => if a < k then (a, v) :: (k, b) :: m else (k, b) :: Memory.insertByte m a v

/-- The memory after `v` is stored at `a` (R53), in canonical form: no entry holds `Config.unwrittenByte`. -/
def Memory.write (m : Memory) (a : Nat) (v : Byte) : Memory :=
  if v = Config.unwrittenByte then m.eraseByte a else (m.eraseByte a).insertByte a v

/-- The canonical form from address `lo` on: addresses strictly rising, inside the 64 KiB of R50, and no entry equal to
what an unlisted address reads as. -/
def Memory.wfFrom : Nat → Memory → Bool
  | _, [] => true
  | lo, (k, b) :: m =>
    decide (lo ≤ k) && decide (k < 65536) && decide (b ≠ Config.unwrittenByte) && Memory.wfFrom (k + 1) m

/-- The canonical form of a memory. -/
def Memory.wf (m : Memory) : Bool := Memory.wfFrom 0 m

/-! Little-endian words (R8, R51, R59). An address is 16 bits, so `a + 1` wraps (R57). -/

/-- `MemRead(a, 1)` (R8). -/
def Memory.readByte (m : Memory) (a : Word) : Byte := m.read a.toNat

/-- `MemRead(a, 2)` (R8, R51): the byte at the lower address is the less significant. -/
def Memory.readWord (m : Memory) (a : Word) : Word := m.readByte (a + 1) ++ m.readByte a

/-- `MemWrite(a, 1, v)` (R8). -/
def Memory.writeByte (m : Memory) (a : Word) (v : Byte) : Memory := m.write a.toNat v

/-- `MemWrite(a, 2, v)` (R8, R51): low byte at `a` first, then high byte at `a + 1` (R59). -/
def Memory.writeWord (m : Memory) (a : Word) (v : Word) : Memory :=
  (m.writeByte a (v.extractLsb' 0 8)).writeByte (a + 1) (v.extractLsb' 8 8)

/-! Registers. -/

/-- The B register a name stands for (R20). -/
def Regs.get (r : Regs) : BReg → Byte
  | .b0 => r.b0
  | .b1 => r.b1
  | .b2 => r.b2
  | .b3 => r.b3
  | .b4 => r.b4
  | .b5 => r.b5
  | .b6 => r.b6
  | .b7 => r.b7

/-- The registers after a write to one B register (R21). -/
def Regs.set (r : Regs) (x : BReg) (v : Byte) : Regs :=
  match x with
  | .b0 => { r with b0 := v }
  | .b1 => { r with b1 := v }
  | .b2 => { r with b2 := v }
  | .b3 => { r with b3 := v }
  | .b4 => { r with b4 := v }
  | .b5 => { r with b5 := v }
  | .b6 => { r with b6 := v }
  | .b7 => { r with b7 := v }

/-- The low half of Wj: B(2j) (R21). -/
def loHalf : WReg → BReg
  | .w0 => .b0
  | .w1 => .b2
  | .w2 => .b4
  | .w3 => .b6

/-- The high half of Wj: B(2j+1) (R21). -/
def hiHalf : WReg → BReg
  | .w0 => .b1
  | .w1 => .b3
  | .w2 => .b5
  | .w3 => .b7

/-- `B[x]` (R7). -/
def State.getB (s : State) (x : BReg) : Byte := s.regs.get x

/-- `B[x] <- v` (R7). -/
def State.setB (s : State) (x : BReg) (v : Byte) : State := { s with regs := s.regs.set x v }

/-- `W[x]`: the high half then the low half (R21). -/
def State.getW (s : State) (x : WReg) : Word := s.getB (hiHalf x) ++ s.getB (loHalf x)

/-- `W[x] <- v`: the two byte writes of R21. -/
def State.setW (s : State) (x : WReg) (v : Word) : State :=
  (s.setB (loHalf x) (v.extractLsb' 0 8)).setB (hiHalf x) (v.extractLsb' 8 8)

/-- `SP <- v`. -/
def State.setSp (s : State) (v : Word) : State := { s with sp := v }

/-- `PC <- v`. -/
def State.setPc (s : State) (v : Word) : State := { s with pc := v }

/-- `FL <- f`. -/
def State.setFlags (s : State) (f : Flags) : State := { s with fl := f }

/-- The state with another memory. -/
def State.setMem (s : State) (m : Memory) : State := { s with mem := m }

/-- `npc` of an instruction of `len` bytes at PC (R7, R25, R26). -/
def State.npc (s : State) (len : Nat) : Word := s.pc + BitVec.ofNat 16 len

/-- `pc <- npc`. -/
def State.advance (s : State) (len : Nat) : State := s.setPc (s.npc len)

/-! The stack (R28) and the flag image (R30). -/

/-- `Push16(v)`: SP goes down by 2, then `v` is written at the new SP (R28). -/
def State.push16 (s : State) (v : Word) : State :=
  (s.setSp (s.sp - 2)).setMem (s.mem.writeWord (s.sp - 2) v)

/-- The word `Pop16()` returns: the one at SP (R28). -/
def State.top16 (s : State) : Word := s.mem.readWord s.sp

/-- The state after `Pop16()`: SP goes up by 2 (R28). -/
def State.drop16 (s : State) : State := s.setSp (s.sp + 2)

/-- `FLImage()`: bits 4..0 are I, N, V, Z, C and bits 15:5 are 0 (R30). -/
def Flags.image (f : Flags) : Word :=
  0#11 ++ BitVec.ofBool f.i ++ BitVec.ofBool f.n ++ BitVec.ofBool f.v ++ BitVec.ofBool f.z ++ BitVec.ofBool f.c

/-- `SetFL(w)`: the flags from bits 4..0 of `w`, bits 15:5 ignored (R30). -/
def Flags.ofImage (w : Word) : Flags where
  i := w.getLsbD 4
  n := w.getLsbD 3
  v := w.getLsbD 2
  z := w.getLsbD 1
  c := w.getLsbD 0

/-! Entry through a vector and the return from it: the one exception mechanism of the machine. -/

/-- The two addresses of a 16-bit access, low byte first (R57, R59). -/
def wordAt (a : Word) : List Word := [a, a + 1]

/-- The word of two bytes, the first the less significant (R51). -/
def leWord (bs : List Byte) : Word := bs.foldr (fun b w => w.extractLsb' 0 8 ++ b) 0

/-- The address of vector `n`'s word in the table at `base`, `base + 2 * (n - 1)` mod 2^16 (R247, R301). -/
def vectorAddr (base : Word) (n : Nat) : Word := base + BitVec.ofNat 16 (2 * (n - 1))

/-- The `IntTarget` that reads its address from the table at `base` (R247, D20). -/
def tableTarget (base : Word) : IntTarget where
  reads n := wordAt (vectorAddr base n)
  target _ bs := leWord bs

/-- `IntTarget` at its default: the table at `VEC_BASE` (R247, D20; log 7). -/
def intTarget : IntTarget := tableTarget Config.vecBase

/-- `IntTarget(n)` in a memory: the handler's address of vector `n` (R247, R302 (4)). -/
def handlerAddr (t : IntTarget) (n : Nat) (m : Memory) : Word := t.target n ((t.reads n).map m.readByte)

/-- Entry through vector `n` of `t` with return address `ret` (R302): push `ret`, push the flag image, then read the
handler's address (after both pushes, R65) and go there. No flag changes, I included (R303). -/
def State.enterVector (s : State) (t : IntTarget) (ret : Word) (n : Nat) : State :=
  let saved := (s.push16 ret).push16 s.fl.image
  saved.setPc (handlerAddr t n saved.mem)

/-- The return from a vector (R263, R306): pop the flag image into the flags, then pop PC. -/
def State.returnFromVector (s : State) : State :=
  let restored := s.drop16.setFlags (Flags.ofImage s.top16)
  restored.drop16.setPc restored.top16

/-! Fetching (R25, R52, R58, R96). -/

/-- The four bytes from PC on, addresses mod 2^16: as many as the longest instruction has. Reading more bytes than the
instruction has cannot be observed, since a read has no side effect (R55; log 19). -/
def State.fetchWindow (s : State) : List Byte :=
  [s.mem.readByte s.pc, s.mem.readByte (s.pc + 1), s.mem.readByte (s.pc + 2), s.mem.readByte (s.pc + 3)]

/-- What the fetch at PC answers under the opcode map `opc` (R96). -/
def State.fetchWith (s : State) (opc : Op → Byte) : Decoded := decodeWith opc s.fetchWindow

/-- What the fetch at PC answers under the default opcode map (R90, R96). -/
def State.fetch (s : State) : Decoded := s.fetchWith opcodeByte

/-- The model-level fault of a rejected fetch: the address and the bytes read (R97). -/
def State.illegal (s : State) (r : DecodeReject) : Fault := .illegalInstruction s.pc r.bytes

/-- The memory with the bytes `bs` stored from address `a` on, mod 2^16. -/
def Memory.writeBytes (m : Memory) (a : Word) : List Byte → Memory
  | [] => m
  | b :: bs => (m.writeByte a b).writeBytes (a + 1) bs

end Sys2Proof.Machine
end

