-- ==== Sys2Proof/Machine/Operands.lean ====
section
/-! DEFINITION. The operand forms, and the shared shapes of the meanings over them: the five memory operands (spec
30_encoding.md R85), the relative target (43_branching.md R240), the shift count, and the ways an instruction writes
its result and its flags (R31, R160, R200). Every source is read from the state before anything is written (R65, R334). -/

namespace Sys2Proof.Machine

/-- The memory operand of a transfer, one constructor per mode (R85). -/
inductive MemOperand where
  /-- m0, `[ImmW]`. -/
  | abs (imm : Word)
  /-- m1, `[Wy]`. -/
  | ind (y : WReg)
  /-- m2, `[Wy + ImmW]`. -/
  | disp (y : WReg) (imm : Word)
  /-- m3, `[SP + Wy]`. -/
  | stack (y : WReg)
  /-- m4, `[Wy + Wz]`. -/
  | idx (y z : WReg)
  deriving DecidableEq, Repr

/-- The effective address of a memory operand, mod 2^16 (R85). -/
def State.ea (s : State) : MemOperand → Word
  | .abs imm => imm
  | .ind y => s.getW y
  | .disp y imm => s.getW y + imm
  | .stack y => s.sp + s.getW y
  | .idx y z => s.getW y + s.getW z

/-- The relative target of a signed displacement byte: `npc + sext_16(d)` mod 2^16, the instruction being 2 bytes long
(R240, R84). -/
def State.relTarget (s : State) (d : Byte) : Word := s.npc 2 + d.signExtend 16

/-- The shift count: all 8 bits of a B register, 0 to 255 (R12, R176, R217). -/
def State.shiftCount (s : State) (y : BReg) : Nat := (s.getB y).toNat

/-! The memory transfers (R120); `len` is the instruction's length. -/

/-- LDB: `B[x] <- MemRead(ea, 1)`. -/
def State.loadByte (s : State) (len : Nat) (x : BReg) (m : MemOperand) : State :=
  (s.setB x (s.mem.readByte (s.ea m))).advance len

/-- LDW: `W[x] <- MemRead(ea, 2)`. -/
def State.loadWord (s : State) (len : Nat) (x : WReg) (m : MemOperand) : State :=
  (s.setW x (s.mem.readWord (s.ea m))).advance len

/-- SRB: `MemWrite(ea, 1, B[x])`. -/
def State.storeByte (s : State) (len : Nat) (x : BReg) (m : MemOperand) : State :=
  (s.setMem (s.mem.writeByte (s.ea m) (s.getB x))).advance len

/-- SRW: `MemWrite(ea, 2, W[x])`. -/
def State.storeWord (s : State) (len : Nat) (x : WReg) (m : MemOperand) : State :=
  (s.setMem (s.mem.writeWord (s.ea m) (s.getW x))).advance len

/-! The register-transform shapes, each of a 2-byte instruction: a result and the flags its class writes (R31). -/

/-- A byte logic result: N and Z written, V and C kept (R160). -/
def State.logicB (s : State) (x : BReg) (r : Byte) : State :=
  ((s.setB x r).setFlags (s.fl.setNZ r)).advance 2

/-- A word logic result: N and Z written, V and C kept (R200). -/
def State.logicW (s : State) (x : WReg) (r : Word) : State :=
  ((s.setW x r).setFlags (s.fl.setNZ r)).advance 2

/-- A byte result of the adder: N, V, Z, C written (R160). -/
def State.arithB (s : State) (x : BReg) (a : AddRec 8) : State :=
  ((s.setB x a.r).setFlags (s.fl.setNVZC a)).advance 2

/-- A word result of the adder: N, V, Z, C written (R200). -/
def State.arithW (s : State) (x : WReg) (a : AddRec 16) : State :=
  ((s.setW x a.r).setFlags (s.fl.setNVZC a)).advance 2

/-- A byte shift result with the bit moved out: N, Z, C written, V kept (R160). -/
def State.shiftB (s : State) (x : BReg) (rc : Byte × Bool) : State :=
  ((s.setB x rc.1).setFlags (s.fl.setShift rc.1 rc.2)).advance 2

/-- A word shift result with the bit moved out: N, Z, C written, V kept (R200). -/
def State.shiftW (s : State) (x : WReg) (rc : Word × Bool) : State :=
  ((s.setW x rc.1).setFlags (s.fl.setShift rc.1 rc.2)).advance 2

/-! The branching shapes. -/

/-- A conditional jump: to the relative target if the condition holds, else to the next instruction (R240 (7)). -/
def State.jumpIf (s : State) (k : Cond) (d : Byte) : State :=
  if k.holds s.fl then s.setPc (s.relTarget d) else s.advance 2

/-- A call of an instruction of `len` bytes: push npc, then go to `target` (R240 (6)). -/
def State.callTo (s : State) (len : Nat) (target : Word) : State := (s.push16 (s.npc len)).setPc target

/-- A one-byte instruction that only writes flags (R280). -/
def State.flagsTo (s : State) (f : Flags) : State := (s.setFlags f).advance 1

end Sys2Proof.Machine
end

