-- ==== Sys2Proof/Machine/AluByte.lean ====
section
/-! DEFINITION. The byte forms of the register-transform group (spec 41_alu_byte.md). -/

namespace Sys2Proof.Machine

/-- `MOV Bx By` (R162). -/
def execMovb (x y : BReg) (s : State) : Outcome := .next ((s.setB x (s.getB y)).advance 2)

/-- `MOV Bx immB` (R163). -/
def execMovbi (x : BReg) (imm : Byte) (s : State) : Outcome := .next ((s.setB x imm).advance 3)

/-- `NOT Bx` (R164). -/
def execNotb (x : BReg) (s : State) : Outcome := .next (s.logicB x (~~~(s.getB x)))

/-- `AND Bx By` (R165). -/
def execAndb (x y : BReg) (s : State) : Outcome := .next (s.logicB x (s.getB x &&& s.getB y))

/-- `OR Bx By` (R166). -/
def execOrb (x y : BReg) (s : State) : Outcome := .next (s.logicB x (s.getB x ||| s.getB y))

/-- `EOR Bx By` (R167). -/
def execEorb (x y : BReg) (s : State) : Outcome := .next (s.logicB x (s.getB x ^^^ s.getB y))

/-- `NEG Bx` (R168). -/
def execNegb (x : BReg) (s : State) : Outcome := .next (s.arithB x (subC 0 (s.getB x) true))

/-- `INC Bx` (R169). -/
def execIncb (x : BReg) (s : State) : Outcome := .next (s.arithB x (addC (s.getB x) 1 false))

/-- `DEC Bx` (R170). -/
def execDecb (x : BReg) (s : State) : Outcome := .next (s.arithB x (subC (s.getB x) 1 true))

/-- `ADD Bx By` (R171). -/
def execAddb (x y : BReg) (s : State) : Outcome := .next (s.arithB x (addC (s.getB x) (s.getB y) false))

/-- `SUB Bx By` (R172). -/
def execSubb (x y : BReg) (s : State) : Outcome := .next (s.arithB x (subC (s.getB x) (s.getB y) true))

/-- `ADC Bx By` (R173). -/
def execAdcb (x y : BReg) (s : State) : Outcome := .next (s.arithB x (addC (s.getB x) (s.getB y) s.fl.c))

/-- `SBB Bx By` (R174). -/
def execSbbb (x y : BReg) (s : State) : Outcome := .next (s.arithB x (subC (s.getB x) (s.getB y) s.fl.c))

/-- `SHL Bx 1` (R175). -/
def execShlb1 (x : BReg) (s : State) : Outcome := .next (s.shiftB x (sh1 .shl (s.getB x)))

/-- `SHL Bx By` (R176). -/
def execShlb (x y : BReg) (s : State) : Outcome := .next (s.shiftB x (shN .shl (s.shiftCount y) (s.getB x) s.fl.c))

/-- `SHR Bx 1` (R177). -/
def execShrb1 (x : BReg) (s : State) : Outcome := .next (s.shiftB x (sh1 .shr (s.getB x)))

/-- `SHR Bx By` (R178). -/
def execShrb (x y : BReg) (s : State) : Outcome := .next (s.shiftB x (shN .shr (s.shiftCount y) (s.getB x) s.fl.c))

/-- `SAR Bx 1` (R179). -/
def execSarb1 (x : BReg) (s : State) : Outcome := .next (s.shiftB x (sh1 .sar (s.getB x)))

/-- `SAR Bx By` (R180). -/
def execSarb (x y : BReg) (s : State) : Outcome := .next (s.shiftB x (shN .sar (s.shiftCount y) (s.getB x) s.fl.c))

/-- `ROR Bx 1` (R181). -/
def execRorb (x : BReg) (s : State) : Outcome := .next (s.shiftB x (sh1 .ror (s.getB x)))

/-- `ROL Bx 1` (R182). -/
def execRolb (x : BReg) (s : State) : Outcome := .next (s.shiftB x (sh1 .rol (s.getB x)))

/-- `SWP Bx By` (R183). -/
def execSwpb (x y : BReg) (s : State) : Outcome := .next (((s.setB x (s.getB y)).setB y (s.getB x)).advance 2)

end Sys2Proof.Machine
end

