-- ==== Sys2Proof/Machine/AluWord.lean ====
section
/-! DEFINITION. The word forms of the register-transform group (spec 42_alu_word.md). -/

namespace Sys2Proof.Machine

/-- `MOV Wx Wy` (R201). -/
def execMovw (x y : WReg) (s : State) : Outcome := .next ((s.setW x (s.getW y)).advance 2)

/-- `MOV Wx immW` (R202). -/
def execMovwi (x : WReg) (imm : Word) (s : State) : Outcome := .next ((s.setW x imm).advance 4)

/-- `MOV SP Wx` (R203). -/
def execMovsw (x : WReg) (s : State) : Outcome := .next ((s.setSp (s.getW x)).advance 2)

/-- `MOV Wx SP` (R204). -/
def execMovws (x : WReg) (s : State) : Outcome := .next ((s.setW x s.sp).advance 2)

/-- `NOT Wx` (R205). -/
def execNotw (x : WReg) (s : State) : Outcome := .next (s.logicW x (~~~(s.getW x)))

/-- `AND Wx Wy` (R206). -/
def execAndw (x y : WReg) (s : State) : Outcome := .next (s.logicW x (s.getW x &&& s.getW y))

/-- `OR Wx Wy` (R207). -/
def execOrw (x y : WReg) (s : State) : Outcome := .next (s.logicW x (s.getW x ||| s.getW y))

/-- `EOR Wx Wy` (R208). -/
def execEorw (x y : WReg) (s : State) : Outcome := .next (s.logicW x (s.getW x ^^^ s.getW y))

/-- `NEG Wx` (R209). -/
def execNegw (x : WReg) (s : State) : Outcome := .next (s.arithW x (subC 0 (s.getW x) true))

/-- `INC Wx` (R210). -/
def execIncw (x : WReg) (s : State) : Outcome := .next (s.arithW x (addC (s.getW x) 1 false))

/-- `DEC Wx` (R211). -/
def execDecw (x : WReg) (s : State) : Outcome := .next (s.arithW x (subC (s.getW x) 1 true))

/-- `ADD Wx Wy` (R212). -/
def execAddw (x y : WReg) (s : State) : Outcome := .next (s.arithW x (addC (s.getW x) (s.getW y) false))

/-- `SUB Wx Wy` (R213). -/
def execSubw (x y : WReg) (s : State) : Outcome := .next (s.arithW x (subC (s.getW x) (s.getW y) true))

/-- `ADC Wx Wy` (R214). -/
def execAdcw (x y : WReg) (s : State) : Outcome := .next (s.arithW x (addC (s.getW x) (s.getW y) s.fl.c))

/-- `SBB Wx Wy` (R215). -/
def execSbbw (x y : WReg) (s : State) : Outcome := .next (s.arithW x (subC (s.getW x) (s.getW y) s.fl.c))

/-- `SHL Wx 1` (R216). -/
def execShlw1 (x : WReg) (s : State) : Outcome := .next (s.shiftW x (sh1 .shl (s.getW x)))

/-- `SHL Wx By` (R217). -/
def execShlwb (x : WReg) (y : BReg) (s : State) : Outcome :=
  .next (s.shiftW x (shN .shl (s.shiftCount y) (s.getW x) s.fl.c))

/-- `SHR Wx 1` (R218). -/
def execShrw1 (x : WReg) (s : State) : Outcome := .next (s.shiftW x (sh1 .shr (s.getW x)))

/-- `SHR Wx By` (R219). -/
def execShrwb (x : WReg) (y : BReg) (s : State) : Outcome :=
  .next (s.shiftW x (shN .shr (s.shiftCount y) (s.getW x) s.fl.c))

/-- `SAR Wx 1` (R220). -/
def execSarw1 (x : WReg) (s : State) : Outcome := .next (s.shiftW x (sh1 .sar (s.getW x)))

/-- `SAR Wx By` (R221). -/
def execSarwb (x : WReg) (y : BReg) (s : State) : Outcome :=
  .next (s.shiftW x (shN .sar (s.shiftCount y) (s.getW x) s.fl.c))

/-- `ROR Wx 1` (R222). -/
def execRorw (x : WReg) (s : State) : Outcome := .next (s.shiftW x (sh1 .ror (s.getW x)))

/-- `ROL Wx 1` (R223). -/
def execRolw (x : WReg) (s : State) : Outcome := .next (s.shiftW x (sh1 .rol (s.getW x)))

/-- `SWP Wx Wy` (R224). -/
def execSwpw (x y : WReg) (s : State) : Outcome := .next (((s.setW x (s.getW y)).setW y (s.getW x)).advance 2)

end Sys2Proof.Machine
end

