-- ==== Sys2Proof/Machine/Branch.lean ====
section
/-! DEFINITION. The branching group: jumps, calls, INT, conditional jumps, RET, IRET (spec 43_branching.md). "PC" in an action is npc
(10_state.md R25). -/

namespace Sys2Proof.Machine

/-- `J relative_immediate` (R241). -/
def execJR (d : Byte) (s : State) : Outcome := .next (s.setPc (s.relTarget d))

/-- `J absolute_immediate` (R242). -/
def execJA (imm : Word) (s : State) : Outcome := .next (s.setPc imm)

/-- `JX Wx` (R243). -/
def execJX (x : WReg) (s : State) : Outcome := .next (s.setPc (s.getW x))

/-- `C relative_immediate` (R244). -/
def execCR (d : Byte) (s : State) : Outcome := .next (s.callTo 2 (s.relTarget d))

/-- `C absolute_immediate` (R245). -/
def execCA (imm : Word) (s : State) : Outcome := .next (s.callTo 3 imm)

/-- `CX Wx` (R246). -/
def execCX (x : WReg) (s : State) : Outcome := .next (s.callTo 2 (s.getW x))

/-- `INT n` under the `IntTarget` given (R247, R302): entry through vector n with the address of the next instruction,
whatever FL.I is. A number outside 1..16 is no instruction (R84). -/
def intThrough (t : IntTarget) (n : Nat) (s : State) : Outcome :=
  if 1 ≤ n ∧ n ≤ 16 then .next (s.enterVector t (s.npc 1) n) else .refused (.illFormed "INT")

/-- `INT n` (R247) under the default `IntTarget`. -/
def execInt (n : Nat) (s : State) : Outcome := intThrough intTarget n s

/-- `JE/JZ relative_immediate` (R248). -/
def execJz (d : Byte) (s : State) : Outcome := .next (s.jumpIf .z d)

/-- `JNE/JNZ relative_immediate` (R249). -/
def execJnz (d : Byte) (s : State) : Outcome := .next (s.jumpIf .nz d)

/-- `JC/JAE relative_immediate` (R250). -/
def execJc (d : Byte) (s : State) : Outcome := .next (s.jumpIf .c d)

/-- `JNC/JB relative_immediate` (R251). -/
def execJnc (d : Byte) (s : State) : Outcome := .next (s.jumpIf .nc d)

/-- `JN/JMI relative_immediate` (R252). -/
def execJn (d : Byte) (s : State) : Outcome := .next (s.jumpIf .n d)

/-- `JNN/JPZ relative_immediate` (R253). -/
def execJnn (d : Byte) (s : State) : Outcome := .next (s.jumpIf .nn d)

/-- `JV relative_immediate` (R254). -/
def execJv (d : Byte) (s : State) : Outcome := .next (s.jumpIf .v d)

/-- `JNV relative_immediate` (R255). -/
def execJnv (d : Byte) (s : State) : Outcome := .next (s.jumpIf .nv d)

/-- `JA relative_immediate` (R256). -/
def execJa (d : Byte) (s : State) : Outcome := .next (s.jumpIf .a d)

/-- `JBE relative_immediate` under the `JBE_COND` given (R257, D29). -/
def jbeUnder (k : JbeCond) (d : Byte) (s : State) : Outcome := .next (s.jumpIf (.be k) d)

/-- `JBE relative_immediate` (R257) under the reading the spec takes (log 11). -/
def execJbe (d : Byte) (s : State) : Outcome := jbeUnder Config.jbeCond d s

/-- `JGE relative_immediate` (R258). -/
def execJge (d : Byte) (s : State) : Outcome := .next (s.jumpIf .ge d)

/-- `JL relative_immediate` (R259). -/
def execJl (d : Byte) (s : State) : Outcome := .next (s.jumpIf .l d)

/-- `JG relative_immediate` (R260). -/
def execJg (d : Byte) (s : State) : Outcome := .next (s.jumpIf .g d)

/-- `JLE relative_immediate` (R261). -/
def execJle (d : Byte) (s : State) : Outcome := .next (s.jumpIf .le d)

/-- `RET` (R262). -/
def execRet (s : State) : Outcome := .next (s.drop16.setPc s.top16)

/-- `IRET` (R263). -/
def execIret (s : State) : Outcome := .next (s.returnFromVector)

end Sys2Proof.Machine
end

