-- ==== Sys2Proof/Machine/Misc.lean ====
section
/-! DEFINITION. The Misc group: NOP, flag set and clear, LEA (spec 44_misc.md). -/

namespace Sys2Proof.Machine

/-- `NOP` (R281). -/
def execNop (s : State) : Outcome := .next (s.advance 1)

/-- `STI` (R282). -/
def execSti (s : State) : Outcome := .next (s.flagsTo { s.fl with i := true })

/-- `STC` (R283). -/
def execStc (s : State) : Outcome := .next (s.flagsTo { s.fl with c := true })

/-- `STZ` (R284). -/
def execStz (s : State) : Outcome := .next (s.flagsTo { s.fl with z := true })

/-- `STV` (R285). -/
def execStv (s : State) : Outcome := .next (s.flagsTo { s.fl with v := true })

/-- `STN` (R286). -/
def execStn (s : State) : Outcome := .next (s.flagsTo { s.fl with n := true })

/-- `CLI` (R287). -/
def execCli (s : State) : Outcome := .next (s.flagsTo { s.fl with i := false })

/-- `CLC` (R288). -/
def execClc (s : State) : Outcome := .next (s.flagsTo { s.fl with c := false })

/-- `CLZ` (R289). -/
def execClz (s : State) : Outcome := .next (s.flagsTo { s.fl with z := false })

/-- `CLV` (R290). -/
def execClv (s : State) : Outcome := .next (s.flagsTo { s.fl with v := false })

/-- `CLN` (R291). -/
def execCln (s : State) : Outcome := .next (s.flagsTo { s.fl with n := false })

/-- `LEA Wx SimmW` (R292). -/
def execLea (x : WReg) (imm : Word) (s : State) : Outcome := .next ((s.setW x (s.npc 4 + imm)).advance 4)

end Sys2Proof.Machine
end

