-- ==== Sys2Proof/Machine/Transfer.lean ====
section
/-! DEFINITION. The transfer group: LDB, LDW, SRB, SRW in five modes, PUSHF, PUSH, POPF, POP (spec 40_transfer.md). No transfer
writes a flag but POPF, which loads all five. -/

namespace Sys2Proof.Machine

/-- `LDB Bx [ImmW]` (R121). -/
def execLdbM0 (x : BReg) (imm : Word) (s : State) : Outcome := .next (s.loadByte 4 x (.abs imm))

/-- `LDW Wx [ImmW]` (R122). -/
def execLdwM0 (x : WReg) (imm : Word) (s : State) : Outcome := .next (s.loadWord 4 x (.abs imm))

/-- `SRB Bx [ImmW]` (R123). -/
def execSrbM0 (x : BReg) (imm : Word) (s : State) : Outcome := .next (s.storeByte 4 x (.abs imm))

/-- `SRW Wx [ImmW]` (R124). -/
def execSrwM0 (x : WReg) (imm : Word) (s : State) : Outcome := .next (s.storeWord 4 x (.abs imm))

/-- `LDB Bx [Wy]` (R125). -/
def execLdbM1 (x : BReg) (y : WReg) (s : State) : Outcome := .next (s.loadByte 2 x (.ind y))

/-- `LDW Wx [Wy]` (R126). -/
def execLdwM1 (x y : WReg) (s : State) : Outcome := .next (s.loadWord 2 x (.ind y))

/-- `SRB Bx [Wy]` (R127). -/
def execSrbM1 (x : BReg) (y : WReg) (s : State) : Outcome := .next (s.storeByte 2 x (.ind y))

/-- `SRW Wx [Wy]` (R128). -/
def execSrwM1 (x y : WReg) (s : State) : Outcome := .next (s.storeWord 2 x (.ind y))

/-- `LDB Bx [Wy + ImmW]` (R129). -/
def execLdbM2 (x : BReg) (y : WReg) (imm : Word) (s : State) : Outcome := .next (s.loadByte 4 x (.disp y imm))

/-- `LDW Wx [Wy + ImmW]` (R130). -/
def execLdwM2 (x y : WReg) (imm : Word) (s : State) : Outcome := .next (s.loadWord 4 x (.disp y imm))

/-- `SRB Bx [Wy + ImmW]` (R131). -/
def execSrbM2 (x : BReg) (y : WReg) (imm : Word) (s : State) : Outcome := .next (s.storeByte 4 x (.disp y imm))

/-- `SRW Wx [Wy + ImmW]` (R132). -/
def execSrwM2 (x y : WReg) (imm : Word) (s : State) : Outcome := .next (s.storeWord 4 x (.disp y imm))

/-- `LDB Bx [SP + Wy]` (R133). -/
def execLdbM3 (x : BReg) (y : WReg) (s : State) : Outcome := .next (s.loadByte 2 x (.stack y))

/-- `LDW Wx [SP + Wy]` (R134). -/
def execLdwM3 (x y : WReg) (s : State) : Outcome := .next (s.loadWord 2 x (.stack y))

/-- `SRB Bx [SP + Wy]` (R135). -/
def execSrbM3 (x : BReg) (y : WReg) (s : State) : Outcome := .next (s.storeByte 2 x (.stack y))

/-- `SRW Wx [SP + Wy]` (R136). -/
def execSrwM3 (x y : WReg) (s : State) : Outcome := .next (s.storeWord 2 x (.stack y))

/-- `LDB Bx [Wy + Wz]` (R137). -/
def execLdbM4 (x : BReg) (y z : WReg) (s : State) : Outcome := .next (s.loadByte 2 x (.idx y z))

/-- `LDW Wx [Wy + Wz]` (R138). -/
def execLdwM4 (x y z : WReg) (s : State) : Outcome := .next (s.loadWord 2 x (.idx y z))

/-- `SRB Bx [Wy + Wz]` (R139). -/
def execSrbM4 (x : BReg) (y z : WReg) (s : State) : Outcome := .next (s.storeByte 2 x (.idx y z))

/-- `SRW Wx [Wy + Wz]` (R140). -/
def execSrwM4 (x y z : WReg) (s : State) : Outcome := .next (s.storeWord 2 x (.idx y z))

/-- `PUSHF` (R141). -/
def execPushf (s : State) : Outcome := .next ((s.push16 s.fl.image).advance 1)

/-- `PUSH Wx` (R142). -/
def execPush (x : WReg) (s : State) : Outcome := .next ((s.push16 (s.getW x)).advance 2)

/-- `POPF` (R143). -/
def execPopf (s : State) : Outcome := .next ((s.drop16.setFlags (Flags.ofImage s.top16)).advance 1)

/-- `POP Wx` (R144). -/
def execPop (x : WReg) (s : State) : Outcome := .next ((s.drop16.setW x s.top16).advance 2)

end Sys2Proof.Machine
end

