-- ==== Sys2Proof/Machine/Dispatch.lean ====
section
/-! DEFINITION. The meaning of each instruction, one arm per constructor of `Instr`. -/

namespace Sys2Proof.Machine

def exec (i : Instr) (s : State) : Host.Outcome State Fault Refusal :=
  match i with
  | .ldbM0 x imm => Sys2Proof.Machine.execLdbM0 x imm s
  | .ldwM0 x imm => Sys2Proof.Machine.execLdwM0 x imm s
  | .srbM0 x imm => Sys2Proof.Machine.execSrbM0 x imm s
  | .srwM0 x imm => Sys2Proof.Machine.execSrwM0 x imm s
  | .ldbM1 x y => Sys2Proof.Machine.execLdbM1 x y s
  | .ldwM1 x y => Sys2Proof.Machine.execLdwM1 x y s
  | .srbM1 x y => Sys2Proof.Machine.execSrbM1 x y s
  | .srwM1 x y => Sys2Proof.Machine.execSrwM1 x y s
  | .ldbM2 x y imm => Sys2Proof.Machine.execLdbM2 x y imm s
  | .ldwM2 x y imm => Sys2Proof.Machine.execLdwM2 x y imm s
  | .srbM2 x y imm => Sys2Proof.Machine.execSrbM2 x y imm s
  | .srwM2 x y imm => Sys2Proof.Machine.execSrwM2 x y imm s
  | .ldbM3 x y => Sys2Proof.Machine.execLdbM3 x y s
  | .ldwM3 x y => Sys2Proof.Machine.execLdwM3 x y s
  | .srbM3 x y => Sys2Proof.Machine.execSrbM3 x y s
  | .srwM3 x y => Sys2Proof.Machine.execSrwM3 x y s
  | .ldbM4 x y z => Sys2Proof.Machine.execLdbM4 x y z s
  | .ldwM4 x y z => Sys2Proof.Machine.execLdwM4 x y z s
  | .srbM4 x y z => Sys2Proof.Machine.execSrbM4 x y z s
  | .srwM4 x y z => Sys2Proof.Machine.execSrwM4 x y z s
  | .pushf => Sys2Proof.Machine.execPushf s
  | .push x => Sys2Proof.Machine.execPush x s
  | .popf => Sys2Proof.Machine.execPopf s
  | .pop x => Sys2Proof.Machine.execPop x s
  | .movb x y => Sys2Proof.Machine.execMovb x y s
  | .movbi x imm => Sys2Proof.Machine.execMovbi x imm s
  | .notb x => Sys2Proof.Machine.execNotb x s
  | .andb x y => Sys2Proof.Machine.execAndb x y s
  | .orb x y => Sys2Proof.Machine.execOrb x y s
  | .eorb x y => Sys2Proof.Machine.execEorb x y s
  | .negb x => Sys2Proof.Machine.execNegb x s
  | .incb x => Sys2Proof.Machine.execIncb x s
  | .decb x => Sys2Proof.Machine.execDecb x s
  | .addb x y => Sys2Proof.Machine.execAddb x y s
  | .subb x y => Sys2Proof.Machine.execSubb x y s
  | .adcb x y => Sys2Proof.Machine.execAdcb x y s
  | .sbbb x y => Sys2Proof.Machine.execSbbb x y s
  | .shlb1 x => Sys2Proof.Machine.execShlb1 x s
  | .shlb x y => Sys2Proof.Machine.execShlb x y s
  | .shrb1 x => Sys2Proof.Machine.execShrb1 x s
  | .shrb x y => Sys2Proof.Machine.execShrb x y s
  | .sarb1 x => Sys2Proof.Machine.execSarb1 x s
  | .sarb x y => Sys2Proof.Machine.execSarb x y s
  | .rorb x => Sys2Proof.Machine.execRorb x s
  | .rolb x => Sys2Proof.Machine.execRolb x s
  | .swpb x y => Sys2Proof.Machine.execSwpb x y s
  | .movw x y => Sys2Proof.Machine.execMovw x y s
  | .movwi x imm => Sys2Proof.Machine.execMovwi x imm s
  | .movsw x => Sys2Proof.Machine.execMovsw x s
  | .movws x => Sys2Proof.Machine.execMovws x s
  | .notw x => Sys2Proof.Machine.execNotw x s
  | .andw x y => Sys2Proof.Machine.execAndw x y s
  | .orw x y => Sys2Proof.Machine.execOrw x y s
  | .eorw x y => Sys2Proof.Machine.execEorw x y s
  | .negw x => Sys2Proof.Machine.execNegw x s
  | .incw x => Sys2Proof.Machine.execIncw x s
  | .decw x => Sys2Proof.Machine.execDecw x s
  | .addw x y => Sys2Proof.Machine.execAddw x y s
  | .subw x y => Sys2Proof.Machine.execSubw x y s
  | .adcw x y => Sys2Proof.Machine.execAdcw x y s
  | .sbbw x y => Sys2Proof.Machine.execSbbw x y s
  | .shlw1 x => Sys2Proof.Machine.execShlw1 x s
  | .shlwb x y => Sys2Proof.Machine.execShlwb x y s
  | .shrw1 x => Sys2Proof.Machine.execShrw1 x s
  | .shrwb x y => Sys2Proof.Machine.execShrwb x y s
  | .sarw1 x => Sys2Proof.Machine.execSarw1 x s
  | .sarwb x y => Sys2Proof.Machine.execSarwb x y s
  | .rorw x => Sys2Proof.Machine.execRorw x s
  | .rolw x => Sys2Proof.Machine.execRolw x s
  | .swpw x y => Sys2Proof.Machine.execSwpw x y s
  | .jR d => Sys2Proof.Machine.execJR d s
  | .jA imm => Sys2Proof.Machine.execJA imm s
  | .jX x => Sys2Proof.Machine.execJX x s
  | .cR d => Sys2Proof.Machine.execCR d s
  | .cA imm => Sys2Proof.Machine.execCA imm s
  | .cX x => Sys2Proof.Machine.execCX x s
  | .int n => Sys2Proof.Machine.execInt n s
  | .jz d => Sys2Proof.Machine.execJz d s
  | .jnz d => Sys2Proof.Machine.execJnz d s
  | .jc d => Sys2Proof.Machine.execJc d s
  | .jnc d => Sys2Proof.Machine.execJnc d s
  | .jn d => Sys2Proof.Machine.execJn d s
  | .jnn d => Sys2Proof.Machine.execJnn d s
  | .jv d => Sys2Proof.Machine.execJv d s
  | .jnv d => Sys2Proof.Machine.execJnv d s
  | .ja d => Sys2Proof.Machine.execJa d s
  | .jbe d => Sys2Proof.Machine.execJbe d s
  | .jge d => Sys2Proof.Machine.execJge d s
  | .jl d => Sys2Proof.Machine.execJl d s
  | .jg d => Sys2Proof.Machine.execJg d s
  | .jle d => Sys2Proof.Machine.execJle d s
  | .ret => Sys2Proof.Machine.execRet s
  | .iret => Sys2Proof.Machine.execIret s
  | .nop => Sys2Proof.Machine.execNop s
  | .sti => Sys2Proof.Machine.execSti s
  | .stc => Sys2Proof.Machine.execStc s
  | .stz => Sys2Proof.Machine.execStz s
  | .stv => Sys2Proof.Machine.execStv s
  | .stn => Sys2Proof.Machine.execStn s
  | .cli => Sys2Proof.Machine.execCli s
  | .clc => Sys2Proof.Machine.execClc s
  | .clz => Sys2Proof.Machine.execClz s
  | .clv => Sys2Proof.Machine.execClv s
  | .cln => Sys2Proof.Machine.execCln s
  | .lea x imm => Sys2Proof.Machine.execLea x imm s

end Sys2Proof.Machine
end

