-- ==== Sys2Proof/Machine/Step.lean ====
section
/-! DEFINITION. One step of the core (spec 10_state.md R25), and the state with an instruction placed where the next
step fetches it. -/

namespace Sys2Proof.Machine

/-- One step (R25): fetch and decode the instruction at PC and perform it, or stop with `IllegalInstruction` (R97). -/
def step (s : State) : Host.Outcome State Fault Refusal :=
  match s.fetch with
  | .ok i _ => exec i s
  | .reject r => .fault (s.illegal r)

/-- The state with the instruction of a table word placed at PC (R339: the loader places bytes; log 12). -/
def State.withFetchWord (s : State) (nbits w : Nat) : State :=
  s.setMem (s.mem.writeBytes s.pc (tableBytes nbits w))

end Sys2Proof.Machine
end

