-- ==== Sys2Proof/Machine/Platform.lean ====
section
/-! DEFINITION. The machine with the parameters the host chooses (spec 00_scope.md R5, 92_eei_decisions.md "Named
parameters", 70_reset_and_hazards.md R339) as one argument, `Platform`: the fetch under `OPC`, the meanings under
`IntTarget` and `JBE_COND`, the addresses each instruction accesses (20_memory.md R59, R65) and the refusal of those
outside plain memory under `MemMap` (R56), the taking of a vector that `IRQ` presents (60_exceptions.md R304, R305),
and the end of a run at `HALT_PC` (R338). At the defaults with no vector presented this is `step`. -/

namespace Sys2Proof.Machine

/-- The parameters the host chooses before a run (R339), but `IRQ`, which is given step by step as the vector presented
before it (R304). `MemMap` is the list of the address runs that are not plain memory (R55, R56). -/
structure Platform where
  /-- `OPC` (R90, R91): distinct bytes for the 120 names, as `OpcLegal` says in full. -/
  opc : Op → Byte
  /-- `RESET_PC` (R37, R330). -/
  resetPC : Word
  /-- `IntTarget` (R247). -/
  intTarget : IntTarget
  /-- `MemMap` (R55, R56). -/
  holes : List Hole
  /-- `HALT_PC` (R338). -/
  haltPC : Option Word
  /-- `JBE_COND` (R257). -/
  jbeCond : JbeCond

/-- Every parameter at the default the spec gives it (logs 5 to 8, 10 and 11). -/
def defaultPlatform : Platform where
  opc := opcodeByte
  resetPC := Config.resetPC
  intTarget := intTarget
  holes := []
  haltPC := none
  jbeCond := Config.jbeCond

/-- What an instruction does on a platform: INT goes where its `IntTarget` says (R247), JBE jumps by its `JBE_COND`
(R257), and no other instruction's rule names a parameter. -/
def execOn (p : Platform) (i : Instr) (s : State) : Outcome :=
  match i with
  | .int n => intThrough p.intTarget n s
  | .jbe d => jbeUnder p.jbeCond d s
  | i => exec i s

/-- The data addresses an instruction reads under the `IntTarget` given, in order (R59, R65). -/
def dataReads (t : IntTarget) (i : Instr) (s : State) : List Word :=
  match i with
  | .ldbM0 _ imm => [s.ea (.abs imm)]
  | .ldwM0 _ imm => wordAt (s.ea (.abs imm))
  | .srbM0 _ _ => []
  | .srwM0 _ _ => []
  | .ldbM1 _ y => [s.ea (.ind y)]
  | .ldwM1 _ y => wordAt (s.ea (.ind y))
  | .srbM1 _ _ => []
  | .srwM1 _ _ => []
  | .ldbM2 _ y imm => [s.ea (.disp y imm)]
  | .ldwM2 _ y imm => wordAt (s.ea (.disp y imm))
  | .srbM2 _ _ _ => []
  | .srwM2 _ _ _ => []
  | .ldbM3 _ y => [s.ea (.stack y)]
  | .ldwM3 _ y => wordAt (s.ea (.stack y))
  | .srbM3 _ _ => []
  | .srwM3 _ _ => []
  | .ldbM4 _ y z => [s.ea (.idx y z)]
  | .ldwM4 _ y z => wordAt (s.ea (.idx y z))
  | .srbM4 _ _ _ => []
  | .srwM4 _ _ _ => []
  | .pushf => []
  | .push _ => []
  | .popf => wordAt s.sp
  | .pop _ => wordAt s.sp
  | .movb _ _ => []
  | .movbi _ _ => []
  | .notb _ => []
  | .andb _ _ => []
  | .orb _ _ => []
  | .eorb _ _ => []
  | .negb _ => []
  | .incb _ => []
  | .decb _ => []
  | .addb _ _ => []
  | .subb _ _ => []
  | .adcb _ _ => []
  | .sbbb _ _ => []
  | .shlb1 _ => []
  | .shlb _ _ => []
  | .shrb1 _ => []
  | .shrb _ _ => []
  | .sarb1 _ => []
  | .sarb _ _ => []
  | .rorb _ => []
  | .rolb _ => []
  | .swpb _ _ => []
  | .movw _ _ => []
  | .movwi _ _ => []
  | .movsw _ => []
  | .movws _ => []
  | .notw _ => []
  | .andw _ _ => []
  | .orw _ _ => []
  | .eorw _ _ => []
  | .negw _ => []
  | .incw _ => []
  | .decw _ => []
  | .addw _ _ => []
  | .subw _ _ => []
  | .adcw _ _ => []
  | .sbbw _ _ => []
  | .shlw1 _ => []
  | .shlwb _ _ => []
  | .shrw1 _ => []
  | .shrwb _ _ => []
  | .sarw1 _ => []
  | .sarwb _ _ => []
  | .rorw _ => []
  | .rolw _ => []
  | .swpw _ _ => []
  | .jR _ => []
  | .jA _ => []
  | .jX _ => []
  | .cR _ => []
  | .cA _ => []
  | .cX _ => []
  | .int n => t.reads n
  | .jz _ => []
  | .jnz _ => []
  | .jc _ => []
  | .jnc _ => []
  | .jn _ => []
  | .jnn _ => []
  | .jv _ => []
  | .jnv _ => []
  | .ja _ => []
  | .jbe _ => []
  | .jge _ => []
  | .jl _ => []
  | .jg _ => []
  | .jle _ => []
  | .ret => wordAt s.sp
  | .iret => wordAt s.sp ++ wordAt (s.sp + 2)
  | .nop => []
  | .sti => []
  | .stc => []
  | .stz => []
  | .stv => []
  | .stn => []
  | .cli => []
  | .clc => []
  | .clz => []
  | .clv => []
  | .cln => []
  | .lea _ _ => []

/-- The data addresses an instruction writes, in order (R59, R65). -/
def dataWrites (i : Instr) (s : State) : List Word :=
  match i with
  | .ldbM0 _ _ => []
  | .ldwM0 _ _ => []
  | .srbM0 _ imm => [s.ea (.abs imm)]
  | .srwM0 _ imm => wordAt (s.ea (.abs imm))
  | .ldbM1 _ _ => []
  | .ldwM1 _ _ => []
  | .srbM1 _ y => [s.ea (.ind y)]
  | .srwM1 _ y => wordAt (s.ea (.ind y))
  | .ldbM2 _ _ _ => []
  | .ldwM2 _ _ _ => []
  | .srbM2 _ y imm => [s.ea (.disp y imm)]
  | .srwM2 _ y imm => wordAt (s.ea (.disp y imm))
  | .ldbM3 _ _ => []
  | .ldwM3 _ _ => []
  | .srbM3 _ y => [s.ea (.stack y)]
  | .srwM3 _ y => wordAt (s.ea (.stack y))
  | .ldbM4 _ _ _ => []
  | .ldwM4 _ _ _ => []
  | .srbM4 _ y z => [s.ea (.idx y z)]
  | .srwM4 _ y z => wordAt (s.ea (.idx y z))
  | .pushf => wordAt (s.sp - 2)
  | .push _ => wordAt (s.sp - 2)
  | .popf => []
  | .pop _ => []
  | .movb _ _ => []
  | .movbi _ _ => []
  | .notb _ => []
  | .andb _ _ => []
  | .orb _ _ => []
  | .eorb _ _ => []
  | .negb _ => []
  | .incb _ => []
  | .decb _ => []
  | .addb _ _ => []
  | .subb _ _ => []
  | .adcb _ _ => []
  | .sbbb _ _ => []
  | .shlb1 _ => []
  | .shlb _ _ => []
  | .shrb1 _ => []
  | .shrb _ _ => []
  | .sarb1 _ => []
  | .sarb _ _ => []
  | .rorb _ => []
  | .rolb _ => []
  | .swpb _ _ => []
  | .movw _ _ => []
  | .movwi _ _ => []
  | .movsw _ => []
  | .movws _ => []
  | .notw _ => []
  | .andw _ _ => []
  | .orw _ _ => []
  | .eorw _ _ => []
  | .negw _ => []
  | .incw _ => []
  | .decw _ => []
  | .addw _ _ => []
  | .subw _ _ => []
  | .adcw _ _ => []
  | .sbbw _ _ => []
  | .shlw1 _ => []
  | .shlwb _ _ => []
  | .shrw1 _ => []
  | .shrwb _ _ => []
  | .sarw1 _ => []
  | .sarwb _ _ => []
  | .rorw _ => []
  | .rolw _ => []
  | .swpw _ _ => []
  | .jR _ => []
  | .jA _ => []
  | .jX _ => []
  | .cR _ => wordAt (s.sp - 2)
  | .cA _ => wordAt (s.sp - 2)
  | .cX _ => wordAt (s.sp - 2)
  | .int _ => wordAt (s.sp - 2) ++ wordAt (s.sp - 2 - 2)
  | .jz _ => []
  | .jnz _ => []
  | .jc _ => []
  | .jnc _ => []
  | .jn _ => []
  | .jnn _ => []
  | .jv _ => []
  | .jnv _ => []
  | .ja _ => []
  | .jbe _ => []
  | .jge _ => []
  | .jl _ => []
  | .jg _ => []
  | .jle _ => []
  | .ret => []
  | .iret => []
  | .nop => []
  | .sti => []
  | .stc => []
  | .stz => []
  | .stv => []
  | .stn => []
  | .cli => []
  | .clc => []
  | .clz => []
  | .clv => []
  | .cln => []
  | .lea _ _ => []

/-- The addresses of the `len` bytes from PC on (R58). -/
def fetchAddrs (s : State) (len : Nat) : List Word := (List.range len).map (fun k => s.pc + BitVec.ofNat 16 k)

/-- Whether an address lies in a run of addresses, mod 2^16. -/
def inHole (h : Hole) (a : Word) : Bool := decide ((a - h.base).toNat < h.size)

/-- Whether the platform's map declares an address plain memory (R55, R56). -/
def isPlain (p : Platform) (a : Word) : Bool := p.holes.all (fun h => !inHole h a)

/-- `next`, unless one of the addresses is not plain memory: then the access is refused (R56). -/
def guardAccess (p : Platform) (addrs : List Word) (answer : Outcome) : Outcome :=
  match addrs.find? (fun a => !isPlain p a) with
  | some a => .refused (.outsideMemMap a)
  | none => answer

/-- The vector number a presented request asks for, if it is taken: requests are taken only when FL.I is 1 (R304). The
request carries `vector - 1`, so the number is 1 to 16. -/
def takenVector (req : Option (BitVec 4)) (s : State) : Option Nat :=
  match req with
  | none => none
  | some v => if s.fl.i then some (v.toNat + 1) else none

/-- Taking a request: the entry of INT with the address of the instruction not yet executed (R304). -/
def takeRequest (p : Platform) (n : Nat) (s : State) : Outcome :=
  guardAccess p (wordAt (s.sp - 2) ++ wordAt (s.sp - 2 - 2) ++ p.intTarget.reads n)
    (.next (s.enterVector p.intTarget s.pc n))

/-- One step on a platform with what `IRQ` presents before it. The request is examined before the fetch (R305); taking
it is a step of its own (log 18). -/
def platformStep (p : Platform) (req : Option (BitVec 4)) (s : State) : Outcome :=
  match takenVector req s with
  | some n => takeRequest p n s
  | none =>
    match s.fetchWith p.opc with
    | .ok i _ =>
      guardAccess p (fetchAddrs s i.length ++ dataWrites i s ++ dataReads p.intTarget i s) (execOn p i s)
    | .reject r => guardAccess p (fetchAddrs s r.bytes.length) (.fault (s.illegal r))

/-- How a run of a given number of steps stands (R338). -/
inductive RunEnd where
  /-- The normal end: PC was `HALT_PC` at the start of a step, in this state. -/
  | ended (s : State)
  /-- The steps are used up. -/
  | running (s : State)
  /-- A fault: not a normal end. -/
  | faulted (f : Fault)
  /-- A refusal: not a normal end. -/
  | refused (r : Refusal)
  deriving DecidableEq, Repr

/-- A run with one element of `reqs` presented before each step, so as many steps as the list is long; it ends where
PC is `HALT_PC` at the start of a step, before a request is examined (R338, log 10). -/
def runOn (p : Platform) : List (Option (BitVec 4)) → State → RunEnd
  | reqs, s =>
    if p.haltPC = some s.pc then .ended s
    else
      match reqs with
      | [] => .running s
      | req :: rest =>
        match platformStep p req s with
        | .next t => runOn p rest t
        | .fault f => .faulted f
        | .refused r => .refused r

end Sys2Proof.Machine
end

