-- ==== Sys2Proof/Safety.lean ====
section
/-! DEFINITION. The words claims use for states and runs: the states a reset may leave (spec 70_reset_and_hazards.md
R330), the invariant of the memory's form, and the ends of a run (R338). -/

namespace Sys2Proof.Machine

/-- The invariant of every reachable state: the memory list is in canonical form, so that equal memories are equal
data. Every other field of `State` is legal at every value (R23, R26, R28, R30). -/
def Canonical (s : State) : Prop := s.mem.wf = true

/-- The states the spec allows right after reset on a platform (R330): PC is its `RESET_PC`, and the B registers, SP,
the flags and memory hold any values. A claim that is to hold whatever the unspecified values are is a claim about
every such state; `State.resetAt p.resetPC` is one of them. -/
def PowerOn (p : Platform) (s : State) : Prop := s.pc = p.resetPC ∧ Canonical s

/-- The state with a program placed from address `a` on, as the loader does before a run (R339). -/
def State.load (s : State) (a : Word) (bs : List Byte) : State := s.setMem (s.mem.writeBytes a bs)

/-- `k` steps from `s` are taken without a fault or a refusal. -/
def SafeFor (k : Nat) (s : State) : Prop := ∃ t, Sys2Proof.core.run k s = .next t

/-- A run on platform `p` with the requests `reqs` ends normally, in state `t` (R338): a stop with `IllegalInstruction`
is no normal end. -/
def EndsIn (p : Platform) (reqs : List (Option (BitVec 4))) (s t : State) : Prop := runOn p reqs s = .ended t

/-- The outcome `o` of a step that accesses `addrs` and would answer `answer` on plain memory (R56): a refusal that
names one of the addresses that are not plain memory, if there is one, else `answer`. -/
def Guarded (p : Platform) (addrs : List Word) (o answer : Outcome) : Prop :=
  (∀ a ∈ addrs, isPlain p a = false →
    ∃ a' ∈ addrs, isPlain p a' = false ∧ o = .refused (.outsideMemMap a')) ∧
  ((∀ a ∈ addrs, isPlain p a = true) → o = answer)

/-! The frames: what two states have in common, through the model's reads. -/

/-- Every B register but `x` is the same. -/
def SameBBut (x : BReg) (s t : State) : Prop := ∀ y : BReg, y ≠ x → t.getB y = s.getB y

/-- Every B register but the two halves of `x` is the same. -/
def SameWBut (x : WReg) (s t : State) : Prop := ∀ y : BReg, y ≠ loHalf x → y ≠ hiHalf x → t.getB y = s.getB y

/-- Every byte of memory reads the same, but those at the listed addresses. -/
def SameMemBut (stored : List Word) (s t : State) : Prop :=
  ∀ a : Word, a ∉ stored → t.mem.readByte a = s.mem.readByte a

/-- `t` is `s` with `ret` and then the flag image pushed, at whatever PC: the registers and flags of `s`, and every
byte of memory but the four pushed (R302). -/
def SavedForHandler (s t : State) (ret : Word) : Prop :=
  t.sp = s.sp - 4 ∧ t.mem.readWord (s.sp - 2) = ret ∧ t.mem.readWord (s.sp - 4) = s.fl.image ∧
  SameMemBut [s.sp - 4, s.sp - 3, s.sp - 2, s.sp - 1] s t ∧ t.regs = s.regs ∧ t.fl = s.fl

end Sys2Proof.Machine
end

