-- ==== Sys2Proof/Certificates/Slice0/Obligations.lean ====
section
/-! DEFINITION. The statements about the machine. "The instruction at A" of a rule is the one at `s.pc`; a statement of
the form "exec i s answers a next state t" says both that the instruction completes and what it leaves. -/

open Sys2Proof Sys2Proof.Machine

/-! ## Encoding and decoding (spec 30_encoding.md) -/

/-- R80 to R84, R96: under every opcode map with distinct bytes, the bytes of an instruction, whatever follows them,
decode to that instruction and leave what follows. The spec's own decisions D2 to D6 (log 17). -/
def Obligations.EncodingDecodesToItself : Prop :=
  ∀ opc : Op → Byte, (∀ o o' : Op, opc o = opc o' → o = o') →
    ∀ (i : Instr) (rest : List Byte), i.wf = true → decodeWith opc (encodeWith opc i ++ rest) = .ok i rest

/-- R92, R96: bytes that decode to an instruction are its encoding followed by what is left, so that every bit of them
is read; and what decoding answers is well formed. The spec's own decisions D2 to D6 and D22 (log 17). -/
def Obligations.DecodedBytesAreTheEncoding : Prop :=
  ∀ (opc : Op → Byte) (bs rest : List Byte) (i : Instr), decodeWith opc bs = .ok i rest →
    i.wf = true ∧ encodeWith opc i ++ rest = bs

/-- R94, R95: the format and the length of each instruction, by its opcode; and two runs of bytes that decode and begin
with the same byte decode to instructions of the same length, under every opcode map, whatever the bytes after it
are. The clause on LEA (format OP_R_I16, 4 bytes) rests on R89, the spec's own decision D5 (log 17). -/
def Obligations.LengthIsAFunctionOfTheOpcodeByte : Prop :=
  (∀ (opc : Op → Byte) (i : Instr),
    (i.op ∈ [.pushf, .popf, .ret, .iret, .nop, .sti, .stc, .stz, .stv, .stn, .cli, .clc, .clz, .clv, .cln] →
      i.op.format = .op ∧ (encodeWith opc i).length = 1) ∧
    (i.op ∈ Op.intOps → i.op.format = .opv ∧ (encodeWith opc i).length = 1) ∧
    (i.op ∈ [.ldb .m1, .ldb .m3, .ldb .m4, .ldw .m1, .ldw .m3, .ldw .m4, .srb .m1, .srb .m3, .srb .m4, .srw .m1,
        .srw .m3, .srw .m4, .push, .pop] ++ Op.byteOps.erase .movbi ++ Op.wordOps.erase .movwi ++ [.jX, .cX] →
      i.op.format = .opR ∧ (encodeWith opc i).length = 2) ∧
    (i.op ∈ [.jR, .cR, .jz, .jnz, .jc, .jnc, .jn, .jnn, .jv, .jnv, .ja, .jbe, .jge, .jl, .jg, .jle] →
      i.op.format = .opS8 ∧ (encodeWith opc i).length = 2) ∧
    (i.op ∈ [.jA, .cA] → i.op.format = .opI16 ∧ (encodeWith opc i).length = 3) ∧
    (i.op = .movbi → i.op.format = .opRI8 ∧ (encodeWith opc i).length = 3) ∧
    (i.op ∈ [.ldb .m0, .ldb .m2, .ldw .m0, .ldw .m2, .srb .m0, .srb .m2, .srw .m0, .srw .m2, .movwi, .lea] →
      i.op.format = .opRI16 ∧ (encodeWith opc i).length = 4)) ∧
  (∀ (opc : Op → Byte) (b : Byte) (bs bs' rest rest' : List Byte) (i i' : Instr),
    decodeWith opc (b :: bs) = .ok i rest → decodeWith opc (b :: bs') = .ok i' rest' →
    (b :: bs).length - rest.length = (b :: bs').length - rest'.length ∧
    (b :: bs).length - rest.length = (encodeWith opc i).length)

/-- R94: no mode bit, no prefix, and a length by the opcode byte alone. Under every opcode map the fetch depends on the
bytes from PC on and on nothing else of the state; the first byte of every instruction is its opcode byte; and two
fetches that begin with the same byte take the same opcode and the same number of bytes. -/
def Obligations.FetchDependsOnItsBytesAndTheFirstFixesTheLength : Prop :=
  ∀ opc : Op → Byte,
    (∀ s s' : State,
      (∀ k < 4, s'.mem.readByte (s'.pc + BitVec.ofNat 16 k) = s.mem.readByte (s.pc + BitVec.ofNat 16 k)) →
      s'.fetchWith opc = s.fetchWith opc) ∧
    (∀ i : Instr, (encodeWith opc i).head? = some (opc i.op)) ∧
    (∀ (s s' : State) (i i' : Instr) (rest rest' : List Byte),
      s.fetchWith opc = .ok i rest → s'.fetchWith opc = .ok i' rest' →
      s'.mem.readByte s'.pc = s.mem.readByte s.pc →
      i'.op = i.op ∧ rest'.length = rest.length ∧ (encodeWith opc i').length = (encodeWith opc i).length)

/-- R91: the default opcode map satisfies the four structural constraints. The map is the spec's own decision D1 (log
6); the constraints are its inference from R81. -/
def Obligations.DefaultOpcodeMapIsLegal : Prop := OpcLegal opcodeByte

/-- R82, R83, R84, R90: words written out from the encoding tables, one or more of every family. The spec's own
decisions D1 to D6 (logs 6, 17). -/
def Obligations.WrittenWordsDecode : Prop :=
  decode [0b00000100, 0b01100000] = .ok (.ldbM4 .b0 .w1 .w2) [] ∧
  decode [0b00011010, 0b00100001, 0x34, 0x12] = .ok (.srwM2 .w1 .w2 0x1234) [] ∧
  decode [0b00100010] = .ok .popf [] ∧
  decode [0b00110001, 0b00000011, 0xC3] = .ok (.movbi .b3 0xC3) [] ∧
  decode [0b00111010, 0b01110101] = .ok (.subb .b5 .b7) [] ∧
  decode [0b01010001, 0b00000001, 0xEF, 0xBE] = .ok (.movwi .w1 0xBEEF) [] ∧
  decode [0b01100000, 0b01000010] = .ok (.shlwb .w2 .b4) [] ∧
  decode [0b01110001, 0x00, 0x30] = .ok (.jA 0x3000) [] ∧
  decode [0b10001111] = .ok (.int 16) [] ∧
  decode [0b10011001, 0xF0] = .ok (.jbe 0xF0) [] ∧
  decode [0b10111011, 0b00000010, 0x00, 0x80] = .ok (.lea .w2 0x8000) []

/-- R92, R96, R97, R309, with the opcode bytes of the default map spelled out: a step faults exactly where the byte at
PC is one of the 136 unlisted ones, or the register byte has a 1 where its layout prints a 0; and the fault carries
the address and the bytes read. The spec's own decisions D1, D2, D22 (logs 6, 13, 17). -/
def Obligations.IllegalInstructionExactlyAtUnlistedEncodings : Prop :=
  ∀ (s : State) (f : Fault),
    step s = .fault f ↔
      (let b0 := s.mem.readByte s.pc
       let b1 := s.mem.readByte (s.pc + 1)
       let n := b0.toNat
       let rb := [0x00, 0x10, 0x31, 0x32, 0x36, 0x37, 0x38, 0x3D, 0x3F, 0x41, 0x43, 0x44]
       let rw := [0x08, 0x18, 0x21, 0x23, 0x51, 0x52, 0x53, 0x54, 0x58, 0x59, 0x5A, 0x5F, 0x61, 0x63, 0x65, 0x66,
         0x72, 0x75, 0xBB]
       let rbb := [0x30, 0x33, 0x34, 0x35, 0x39, 0x3A, 0x3B, 0x3C, 0x3E, 0x40, 0x42, 0x45]
       let rww := [0x50, 0x55, 0x56, 0x57, 0x5B, 0x5C, 0x5D, 0x5E, 0x67]
       let rwb := [0x60, 0x62, 0x64]
       let tb1 := [0x01, 0x02, 0x03, 0x11, 0x12, 0x13]
       let tw1 := [0x09, 0x0A, 0x0B, 0x19, 0x1A, 0x1B]
       let tb2 := [0x04, 0x14]
       let tw2 := [0x0C, 0x1C]
       (((0x05 ≤ n ∧ n ≤ 0x07) ∨ (0x0D ≤ n ∧ n ≤ 0x0F) ∨ (0x15 ≤ n ∧ n ≤ 0x17) ∨ (0x1D ≤ n ∧ n ≤ 0x1F) ∨
          (0x24 ≤ n ∧ n ≤ 0x2F) ∨ (0x46 ≤ n ∧ n ≤ 0x4F) ∨ (0x68 ≤ n ∧ n ≤ 0x6F) ∨ (0x76 ≤ n ∧ n ≤ 0x7F) ∨
          n = 0x9E ∨ n = 0x9F ∨ (0xA2 ≤ n ∧ n ≤ 0xAF) ∨ 0xBC ≤ n) ∧ f = .illegalInstruction s.pc [b0]) ∨
       (((n ∈ rb ∧ b1 &&& 0b11111000 ≠ 0) ∨ (n ∈ rw ∧ b1 &&& 0b11111100 ≠ 0) ∨ (n ∈ rbb ∧ b1 &&& 0b10001000 ≠ 0) ∨
          (n ∈ rww ∧ b1 &&& 0b11001100 ≠ 0) ∨ (n ∈ rwb ∧ b1 &&& 0b10001100 ≠ 0) ∨
          (n ∈ tb1 ∧ b1 &&& 0b11001000 ≠ 0) ∨ (n ∈ tw1 ∧ b1 &&& 0b11001100 ≠ 0) ∨
          (n ∈ tb2 ∧ b1 &&& 0b00001000 ≠ 0) ∨ (n ∈ tw2 ∧ b1 &&& 0b00001100 ≠ 0)) ∧
        f = .illegalInstruction s.pc [b0, b1]))

/-! ## The step (spec 10_state.md R25) -/

/-- R25: when the bytes at PC decode to an instruction, the step is that instruction. The spec's own decisions D7, D26
(log 17). -/
def Obligations.StepRunsTheDecodedInstruction : Prop :=
  ∀ (s : State) (i : Instr) (rest : List Byte),
    decode [s.mem.readByte s.pc, s.mem.readByte (s.pc + 1), s.mem.readByte (s.pc + 2), s.mem.readByte (s.pc + 3)] =
      .ok i rest → step s = exec i s

/-- R25, R58, R96: when memory holds the bytes of an instruction from PC on, mod 2^16, the step is that instruction,
whatever the bytes after it are; and so on every platform, under its own opcode map, where all memory is plain. The
spec's own decisions D1 to D8 (logs 6, 17). -/
def Obligations.StepRunsTheEncodedInstruction : Prop :=
  ∀ (s : State) (i : Instr), i.wf = true →
    ((∀ (k : Nat) (b : Byte), (encode i)[k]? = some b → s.mem.readByte (s.pc + BitVec.ofNat 16 k) = b) →
      step s = exec i s) ∧
    ∀ p : Platform, (∀ o o' : Op, p.opc o = p.opc o' → o = o') →
      (∀ (k : Nat) (b : Byte), (encodeWith p.opc i)[k]? = some b → s.mem.readByte (s.pc + BitVec.ofNat 16 k) = b) →
      (∃ rest, s.fetchWith p.opc = .ok i rest) ∧ (p.holes = [] → platformStep p none s = execOn p i s)

/-- R120, R160, R200, R240 (8), R280, R300: once decoded, every instruction completes, on every platform. A term that is
no instruction (INT with a number outside 1 to 16) is refused: the model's choice, log 14. The spec's own decisions D8,
D9, D25 (log 17). -/
def Obligations.EveryInstructionCompletes : Prop :=
  ∀ (i : Instr) (s : State),
    (i.wf = true → (∃ t, exec i s = .next t) ∧ ∀ p : Platform, ∃ t, execOn p i s = .next t) ∧
    (i.wf = false → exec i s = .refused (.illFormed "INT") ∧
      ∀ p : Platform, execOn p i s = .refused (.illFormed "INT"))

/-- R25 step (5), R26, R95: every instruction outside the branching group leaves PC at its own address plus its
encoded length, mod 2^16. The spec's own decisions D7, D8 (log 17). -/
def Obligations.SequentialInstructionsAdvanceByTheirLength : Prop :=
  ∀ (i : Instr) (s : State), i.op ∉ Op.branchOps → i.op ∉ Op.intOps →
    ∃ t, exec i s = .next t ∧ t.pc.toNat = (s.pc.toNat + (encode i).length) % 65536

/-! ## Reset and the invariant -/

/-- R37, R330, R339: reset sets PC to the RESET_PC the host chose, whichever it is, and the reset state is one of the
states the spec allows. `State.reset` is at the default 0x0000 that the model takes (log 5). What the other registers
hold is the model's choice and is not stated. The spec's own decision D23. -/
def Obligations.ResetPutsPcAtResetPc : Prop :=
  (∀ p : Platform, (State.resetAt p.resetPC).pc = p.resetPC ∧ PowerOn p (State.resetAt p.resetPC)) ∧
  State.reset.pc = 0x0000 ∧ PowerOn defaultPlatform State.reset

/-- The invariant of the memory's form holds right after reset. The form, and the byte an unlisted address reads as,
are the model's choice (log 4). -/
def Obligations.ResetMemoryIsCanonical : Prop := Canonical State.reset

/-- Every step, from every state whose memory is in canonical form, leaves it in canonical form: addresses strictly
rising and inside the 64 KiB of R50, no entry equal to what an unlisted byte reads as. The form is the model's choice
(log 4). -/
def Obligations.EveryStepKeepsMemoryCanonical : Prop :=
  ∀ s t : State, Canonical s → step s = .next t → Canonical t

/-- The same along every run on every platform, with any interrupt requests presented (R304, R338). The form is the
model's choice (log 4), the parameters the spec's own decisions D21, D24, D27 (logs 8 to 10). -/
def Obligations.EveryRunKeepsMemoryCanonical : Prop :=
  ∀ (p : Platform) (reqs : List (Option (BitVec 4))) (s t : State), Canonical s →
    (runOn p reqs s = .ended t ∨ runOn p reqs s = .running t) → Canonical t

/-! ## Registers, memory, stack, flag image -/

/-- R21: the overlay of W on B, for reads, for word writes and for byte writes. -/
def Obligations.WordRegistersOverlayByteRegisters : Prop :=
  (∀ s : State, s.getW .w0 = s.regs.b1 ++ s.regs.b0 ∧ s.getW .w1 = s.regs.b3 ++ s.regs.b2 ∧
    s.getW .w2 = s.regs.b5 ++ s.regs.b4 ∧ s.getW .w3 = s.regs.b7 ++ s.regs.b6) ∧
  (∀ (s : State) (j : WReg) (v : Word),
    s.setW j v = (s.setB (loHalf j) (v.extractLsb' 0 8)).setB (hiHalf j) (v.extractLsb' 8 8) ∧
    (s.setW j v).getW j = v ∧ ∀ k : WReg, k ≠ j → (s.setW j v).getW k = s.getW k) ∧
  (∀ (s : State) (j : WReg) (b : Byte),
    (s.setB (loHalf j) b).getW j = s.getB (hiHalf j) ++ b ∧ (s.setB (hiHalf j) b).getW j = b ++ s.getB (loHalf j) ∧
    ∀ k : WReg, k ≠ j → (s.setB (loHalf j) b).getW k = s.getW k ∧ (s.setB (hiHalf j) b).getW k = s.getW k) ∧
  (∀ (s : State) (x : BReg) (b : Byte), (s.setB x b).getB x = b ∧ SameBBut x s (s.setB x b) ∧
    (s.setB x b).pc = s.pc ∧ (s.setB x b).sp = s.sp ∧ (s.setB x b).fl = s.fl ∧ (s.setB x b).mem = s.mem)

/-- R51, R53, R57: mixed-width accesses see one array of bytes, low byte at the lower address; a word at 0xFFFF has
its high byte at 0x0000. The spec's own inference from R50 and R51, and its decisions D8, D9 (log 17). -/
def Obligations.MixedWidthAccessesSeeOneArray : Prop :=
  (∀ (m : Memory) (a v : Word), (m.writeWord a v).readByte a = v.extractLsb' 0 8 ∧
    (m.writeWord a v).readByte (a + 1) = v.extractLsb' 8 8 ∧ (m.writeWord a v).readWord a = v ∧
    ∀ k : Word, k ≠ a → k ≠ a + 1 → (m.writeWord a v).readByte k = m.readByte k) ∧
  (∀ (m : Memory) (a : Word) (l h : Byte),
    ((m.writeByte a l).writeByte (a + 1) h).readWord a = h ++ l ∧
    ((m.writeByte a l).readByte a = l ∧ ∀ k : Word, k ≠ a → (m.writeByte a l).readByte k = m.readByte k)) ∧
  (∀ (m : Memory) (a : Word), (m.readWord (a + 1)).extractLsb' 0 8 = (m.readWord a).extractLsb' 8 8) ∧
  (∀ m : Memory, m.readWord 0xFFFF = m.readByte 0x0000 ++ m.readByte 0xFFFF)

/-- R28: a push lowers SP by 2, mod 2^16, and writes the word at the new SP, low byte first; a pop reads the word at
SP and raises SP by 2; a push followed by a pop returns the value and restores SP. The spec's own decisions D8, D10
(log 17). -/
def Obligations.PushThenPopRestores : Prop :=
  ∀ (s : State) (v : Word),
    ((s.push16 v).sp.toNat = (s.sp.toNat + 65534) % 65536 ∧
      (s.push16 v).mem.readByte (s.sp - 2) = v.extractLsb' 0 8 ∧
      (s.push16 v).mem.readByte (s.sp - 1) = v.extractLsb' 8 8 ∧ SameMemBut [s.sp - 2, s.sp - 1] s (s.push16 v)) ∧
    (s.top16 = s.mem.readByte (s.sp + 1) ++ s.mem.readByte s.sp ∧ s.drop16.sp.toNat = (s.sp.toNat + 2) % 65536 ∧
      s.drop16.mem = s.mem) ∧
    ((s.push16 v).top16 = v ∧ (s.push16 v).drop16.sp = s.sp ∧
      (s.push16 v).regs = s.regs ∧ (s.push16 v).fl = s.fl ∧ (s.push16 v).pc = s.pc)

/-- R30: the 16-bit image of FL and the flags it is read back as. The spec's own decision D11 (log 17). -/
def Obligations.FlagImageLayout : Prop :=
  (∀ f : Flags, f.image.toNat = 16 * f.i.toNat + 8 * f.n.toNat + 4 * f.v.toNat + 2 * f.z.toNat + f.c.toNat) ∧
  (∀ w : Word, Flags.ofImage w =
    { i := w.getLsbD 4, n := w.getLsbD 3, v := w.getLsbD 2, z := w.getLsbD 1, c := w.getLsbD 0 }) ∧
  (∀ f : Flags, Flags.ofImage f.image = f) ∧
  (∀ w w' : Word, w &&& 0x001F = w' &&& 0x001F → Flags.ofImage w = Flags.ofImage w')

/-! ## Transfer (spec 40_transfer.md) -/

/-- R85, R120, R121, R125, R129, R133, R137: LDB in the five modes. The spec's own decisions D8, D12, D13 (log 17). -/
def Obligations.ByteLoadsReadTheEffectiveAddress : Prop :=
  ∀ (s : State) (x : BReg) (y z : WReg) (imm : Word) (i : Instr) (a : Word) (len : Nat),
    (i, a, len) ∈ ([(.ldbM0 x imm, imm, 4), (.ldbM1 x y, s.getW y, 2), (.ldbM2 x y imm, s.getW y + imm, 4),
      (.ldbM3 x y, s.sp + s.getW y, 2), (.ldbM4 x y z, s.getW y + s.getW z, 2)] : List (Instr × Word × Nat)) →
    ∃ t, exec i s = .next t ∧ t.getB x = s.mem.readByte a ∧ SameBBut x s t ∧ t.sp = s.sp ∧ t.fl = s.fl ∧
      SameMemBut [] s t ∧ t.pc.toNat = (s.pc.toNat + len) % 65536

/-- R51, R85, R120, R122, R126, R130, R134, R138: LDW in the five modes. The spec's own decisions D8, D9, D12, D13
(log 17). -/
def Obligations.WordLoadsReadTheEffectiveAddress : Prop :=
  ∀ (s : State) (x y z : WReg) (imm : Word) (i : Instr) (a : Word) (len : Nat),
    (i, a, len) ∈ ([(.ldwM0 x imm, imm, 4), (.ldwM1 x y, s.getW y, 2), (.ldwM2 x y imm, s.getW y + imm, 4),
      (.ldwM3 x y, s.sp + s.getW y, 2), (.ldwM4 x y z, s.getW y + s.getW z, 2)] : List (Instr × Word × Nat)) →
    ∃ t, exec i s = .next t ∧ t.getB (loHalf x) = s.mem.readByte a ∧ t.getB (hiHalf x) = s.mem.readByte (a + 1) ∧
      SameWBut x s t ∧ t.sp = s.sp ∧ t.fl = s.fl ∧ SameMemBut [] s t ∧
      t.pc.toNat = (s.pc.toNat + len) % 65536

/-- R85, R120, R123, R127, R131, R135, R139: SRB in the five modes. The one byte stored to is the one at the effective
address. The spec's own decisions D8, D12, D13 (log 17). -/
def Obligations.ByteStoresWriteTheEffectiveAddress : Prop :=
  ∀ (s : State) (x : BReg) (y z : WReg) (imm : Word) (i : Instr) (a : Word) (len : Nat),
    (i, a, len) ∈ ([(.srbM0 x imm, imm, 4), (.srbM1 x y, s.getW y, 2), (.srbM2 x y imm, s.getW y + imm, 4),
      (.srbM3 x y, s.sp + s.getW y, 2), (.srbM4 x y z, s.getW y + s.getW z, 2)] : List (Instr × Word × Nat)) →
    ∃ t, exec i s = .next t ∧ t.mem.readByte a = s.getB x ∧ SameMemBut [a] s t ∧ t.regs = s.regs ∧ t.sp = s.sp ∧
      t.fl = s.fl ∧ t.pc.toNat = (s.pc.toNat + len) % 65536

/-- R51, R57, R85, R120, R124, R128, R132, R136, R140: SRW in the five modes. The bytes stored to are those at the
effective address and the next one, mod 2^16. The spec's own decisions D8, D9, D12, D13 (log 17). -/
def Obligations.WordStoresWriteTheEffectiveAddress : Prop :=
  ∀ (s : State) (x y z : WReg) (imm : Word) (i : Instr) (a : Word) (len : Nat),
    (i, a, len) ∈ ([(.srwM0 x imm, imm, 4), (.srwM1 x y, s.getW y, 2), (.srwM2 x y imm, s.getW y + imm, 4),
      (.srwM3 x y, s.sp + s.getW y, 2), (.srwM4 x y z, s.getW y + s.getW z, 2)] : List (Instr × Word × Nat)) →
    ∃ t, exec i s = .next t ∧ t.mem.readByte a = s.getB (loHalf x) ∧ t.mem.readByte (a + 1) = s.getB (hiHalf x) ∧
      SameMemBut [a, a + 1] s t ∧ t.regs = s.regs ∧ t.sp = s.sp ∧ t.fl = s.fl ∧
      t.pc.toNat = (s.pc.toNat + len) % 65536

/-- R28, R30, R141, R142: PUSHF and PUSH store a word at SP - 2, low byte first. The spec's own decisions D8, D10,
D11, D13 (log 17). -/
def Obligations.PushesStoreBelowTheStackPointer : Prop :=
  ∀ (s : State) (x : WReg) (i : Instr) (v : Word) (len : Nat),
    (i, v, len) ∈ ([(.pushf, s.fl.image, 1), (.push x, s.getW x, 2)] : List (Instr × Word × Nat)) →
    ∃ t, exec i s = .next t ∧ t.sp = s.sp - 2 ∧ t.mem.readByte (s.sp - 2) = v.extractLsb' 0 8 ∧
      t.mem.readByte (s.sp - 1) = v.extractLsb' 8 8 ∧ SameMemBut [s.sp - 2, s.sp - 1] s t ∧ t.regs = s.regs ∧
      t.fl = s.fl ∧ t.pc.toNat = (s.pc.toNat + len) % 65536

/-- R28, R30, R143, R144: POPF loads the five flags, POP a W register, from the word at SP. The spec's own decisions
D8, D10, D11, D13 (log 17). -/
def Obligations.PopsLoadFromTheStackPointer : Prop :=
  ∀ s : State,
    (∃ t, exec .popf s = .next t ∧
      t.fl = { i := (s.mem.readByte s.sp).getLsbD 4, n := (s.mem.readByte s.sp).getLsbD 3,
               v := (s.mem.readByte s.sp).getLsbD 2, z := (s.mem.readByte s.sp).getLsbD 1,
               c := (s.mem.readByte s.sp).getLsbD 0 } ∧
      t.sp = s.sp + 2 ∧ t.regs = s.regs ∧ SameMemBut [] s t ∧ t.pc.toNat = (s.pc.toNat + 1) % 65536) ∧
    ∀ x : WReg, ∃ t, exec (.pop x) s = .next t ∧ t.getB (loHalf x) = s.mem.readByte s.sp ∧
      t.getB (hiHalf x) = s.mem.readByte (s.sp + 1) ∧ SameWBut x s t ∧ t.sp = s.sp + 2 ∧ t.fl = s.fl ∧
      SameMemBut [] s t ∧ t.pc.toNat = (s.pc.toNat + 2) % 65536

/-! ## Register transform, byte forms (spec 41_alu_byte.md) -/

/-- R162, R163, R183: MOVB and MOVBI copy, SWPB exchanges, and none writes a flag. The spec's own decisions D12, D13,
D19 (log 17). -/
def Obligations.ByteMovesAndExchange : Prop :=
  ∀ (s : State) (x y : BReg) (imm : Byte),
    (∀ (i : Instr) (v : Byte) (len : Nat),
      (i, v, len) ∈ ([(.movb x y, s.getB y, 2), (.movbi x imm, imm, 3)] : List (Instr × Byte × Nat)) →
      ∃ t, exec i s = .next t ∧ t.getB x = v ∧ SameBBut x s t ∧ t.sp = s.sp ∧ t.fl = s.fl ∧ SameMemBut [] s t ∧
        t.pc.toNat = (s.pc.toNat + len) % 65536) ∧
    ∃ t, exec (.swpb x y) s = .next t ∧ t.getB x = s.getB y ∧ t.getB y = s.getB x ∧
      (∀ z : BReg, z ≠ x → z ≠ y → t.getB z = s.getB z) ∧ t.sp = s.sp ∧ t.fl = s.fl ∧ SameMemBut [] s t ∧
      t.pc.toNat = (s.pc.toNat + 2) % 65536

/-- R10, R160, R164 to R167: NOTB, ANDB, ORB, EORB bit by bit; N and Z from the result; V, C and I kept. The spec's
own decisions D12, D13, D15 (log 17). -/
def Obligations.ByteLogicResultsAndFlags : Prop :=
  ∀ (s : State) (x y : BReg) (i : Instr) (bit : Bool → Bool → Bool),
    ((i = .notb x ∧ bit = fun a _ => !a) ∨ (i = .andb x y ∧ bit = fun a b => a && b) ∨
      (i = .orb x y ∧ bit = fun a b => a || b) ∨ (i = .eorb x y ∧ bit = fun a b => a != b)) →
    ∃ t, exec i s = .next t ∧
      (∀ k < 8, (t.getB x).getLsbD k = bit ((s.getB x).getLsbD k) ((s.getB y).getLsbD k)) ∧
      t.fl = { s.fl with n := decide (128 ≤ (t.getB x).toNat), z := decide ((t.getB x).toNat = 0) } ∧
      SameBBut x s t ∧ t.sp = s.sp ∧ SameMemBut [] s t ∧ t.pc.toNat = (s.pc.toNat + 2) % 65536

/-- R9, R160, R169, R171, R173: ADDB, ADCB, INCB. C is the carry out of the exact sum and V says that the signed sum
does not fit in -128..127. The spec's own decisions D12 to D16 (log 17). -/
def Obligations.ByteAddsResultsAndFlags : Prop :=
  ∀ (s : State) (x y : BReg) (i : Instr) (b : Byte) (cin : Bool),
    (i, b, cin) ∈ ([(.addb x y, s.getB y, false), (.adcb x y, s.getB y, s.fl.c), (.incb x, 1, false)] :
      List (Instr × Byte × Bool)) →
    ∃ t, exec i s = .next t ∧ (t.getB x).toNat = ((s.getB x).toNat + b.toNat + cin.toNat) % 256 ∧
      t.fl =
        { i := s.fl.i
          n := decide (128 ≤ (t.getB x).toNat)
          v := decide ((s.getB x).toInt + b.toInt + cin.toNat < -128 ∨ 127 < (s.getB x).toInt + b.toInt + cin.toNat)
          z := decide ((t.getB x).toNat = 0)
          c := decide (256 ≤ (s.getB x).toNat + b.toNat + cin.toNat) } ∧
      SameBBut x s t ∧ t.sp = s.sp ∧ SameMemBut [] s t ∧ t.pc.toNat = (s.pc.toNat + 2) % 65536

/-- R9, R160, R161, R168, R170, R172, R174: SUBB, SBBB (one more when C is 0), DECB, NEGB. C says that no borrow
occurred and V that the signed difference does not fit in -128..127. The spec's own decisions D12 to D16 (log 17). -/
def Obligations.ByteSubtractsResultsAndFlags : Prop :=
  ∀ (s : State) (x y : BReg) (i : Instr) (a b : Byte) (borrow : Nat),
    (i, a, b, borrow) ∈ ([(.subb x y, s.getB x, s.getB y, 0), (.sbbb x y, s.getB x, s.getB y, 1 - s.fl.c.toNat),
      (.decb x, s.getB x, 1, 0), (.negb x, 0, s.getB x, 0)] : List (Instr × Byte × Byte × Nat)) →
    ∃ t, exec i s = .next t ∧ ((t.getB x).toNat : Int) = ((a.toNat : Int) - b.toNat - borrow) % 256 ∧
      t.fl =
        { i := s.fl.i
          n := decide (128 ≤ (t.getB x).toNat)
          v := decide (a.toInt - b.toInt - borrow < -128 ∨ 127 < a.toInt - b.toInt - borrow)
          z := decide ((t.getB x).toNat = 0)
          c := decide (b.toNat + borrow ≤ a.toNat) } ∧
      SameBBut x s t ∧ t.sp = s.sp ∧ SameMemBut [] s t ∧ t.pc.toNat = (s.pc.toNat + 2) % 65536

/-- R11, R160, R175, R177, R179, R181, R182: SHLB1, SHRB1, SARB1, RORB, ROLB. C is the bit moved out, N and Z are the
result's, V and I are kept, and the incoming C is not used. The spec's own decisions D13, D15, D17 (log 17). -/
def Obligations.ByteOneBitShiftsResultsAndFlags : Prop :=
  ∀ (s : State) (x : BReg) (i : Instr) (r : Nat) (c : Bool),
    (let a := (s.getB x).toNat
     (i, r, c) ∈ ([(.shlb1 x, 2 * a % 256, decide (128 ≤ a)), (.shrb1 x, a / 2, decide (a % 2 = 1)),
       (.sarb1 x, a / 2 + 128 * (a / 128), decide (a % 2 = 1)), (.rorb x, a / 2 + 128 * (a % 2), decide (a % 2 = 1)),
       (.rolb x, 2 * a % 256 + a / 128, decide (128 ≤ a))] : List (Instr × Nat × Bool))) →
    ∃ t, exec i s = .next t ∧ (t.getB x).toNat = r ∧
      t.fl = { i := s.fl.i, n := decide (128 ≤ r), v := s.fl.v, z := decide (r = 0), c := c } ∧
      SameBBut x s t ∧ t.sp = s.sp ∧ SameMemBut [] s t ∧ t.pc.toNat = (s.pc.toNat + 2) % 65536

/-- R12: the closed forms of the counted shifts, at widths 8 and 16 and every count; a count of 0 keeps the value and
the carry. The right shift of a signed value is division rounding down. The spec's own inference from R11, and its
decisions D17, D18 (log 17). -/
def Obligations.CountedShiftClosedForms : Prop :=
  ∀ (w : Nat), w = 8 ∨ w = 16 → ∀ (a : BitVec w) (cnt : Nat) (c0 : Bool),
    ((shN .shl cnt a c0).1.toNat = a.toNat * 2 ^ cnt % 2 ^ w ∧
      (shN .shl cnt a c0).2 = if cnt = 0 then c0 else if cnt ≤ w then a.getLsbD (w - cnt) else false) ∧
    ((shN .shr cnt a c0).1.toNat = a.toNat / 2 ^ cnt ∧
      (shN .shr cnt a c0).2 = if cnt = 0 then c0 else if cnt ≤ w then a.getLsbD (cnt - 1) else false) ∧
    ((shN .sar cnt a c0).1.toInt = a.toInt / 2 ^ cnt ∧
      (shN .sar cnt a c0).2 = if cnt = 0 then c0 else if cnt < w then a.getLsbD (cnt - 1) else a.msb)

/-- R12, R160, R176, R178, R180: SHLB, SHRB, SARB by all 8 bits of the count register, read before the write; N and Z
from the result, C the last bit moved out or kept for a count of 0, V and I kept. The spec's own decisions D13, D15,
D17, D18 (log 17). -/
def Obligations.ByteCountedShiftsResultsAndFlags : Prop :=
  ∀ (s : State) (x y : BReg) (i : Instr) (r : Int) (c : Bool),
    (let a := s.getB x
     let cnt := (s.getB y).toNat
     (i, r, c) ∈ ([
       (.shlb x y, ((a.toNat * 2 ^ cnt % 256 : Nat) : Int),
         if cnt = 0 then s.fl.c else if cnt ≤ 8 then a.getLsbD (8 - cnt) else false),
       (.shrb x y, ((a.toNat / 2 ^ cnt : Nat) : Int),
         if cnt = 0 then s.fl.c else if cnt ≤ 8 then a.getLsbD (cnt - 1) else false),
       (.sarb x y, a.toInt / 2 ^ cnt % 256,
         if cnt = 0 then s.fl.c else if cnt < 8 then a.getLsbD (cnt - 1) else a.msb)] :
       List (Instr × Int × Bool))) →
    ∃ t, exec i s = .next t ∧ ((t.getB x).toNat : Int) = r ∧
      t.fl = { i := s.fl.i, n := decide (128 ≤ r), v := s.fl.v, z := decide (r = 0), c := c } ∧
      SameBBut x s t ∧ t.sp = s.sp ∧ SameMemBut [] s t ∧ t.pc.toNat = (s.pc.toNat + 2) % 65536

/-! ## Register transform, word forms (spec 42_alu_word.md) -/

/-- R201 to R204, R224: MOVW, MOVWI, MOVWS copy into a W register, MOVSW into SP, SWPW exchanges; none writes a flag.
The spec's own decisions D4, D12, D13, D19 (log 17). -/
def Obligations.WordMovesAndExchange : Prop :=
  ∀ (s : State) (x y : WReg) (imm : Word),
    (∀ (i : Instr) (v : Word) (len : Nat),
      (i, v, len) ∈ ([(.movw x y, s.getW y, 2), (.movwi x imm, imm, 4), (.movws x, s.sp, 2)] :
        List (Instr × Word × Nat)) →
      ∃ t, exec i s = .next t ∧ t.getW x = v ∧ SameWBut x s t ∧ t.sp = s.sp ∧ t.fl = s.fl ∧ SameMemBut [] s t ∧
        t.pc.toNat = (s.pc.toNat + len) % 65536) ∧
    (∃ t, exec (.movsw x) s = .next t ∧ t.sp = s.getW x ∧ t.regs = s.regs ∧ t.fl = s.fl ∧ SameMemBut [] s t ∧
      t.pc.toNat = (s.pc.toNat + 2) % 65536) ∧
    ∃ t, exec (.swpw x y) s = .next t ∧ t.getW x = s.getW y ∧ t.getW y = s.getW x ∧
      (∀ z : WReg, z ≠ x → z ≠ y → t.getW z = s.getW z) ∧ t.sp = s.sp ∧ t.fl = s.fl ∧ SameMemBut [] s t ∧
      t.pc.toNat = (s.pc.toNat + 2) % 65536

/-- R10, R200, R205 to R208: NOTW, ANDW, ORW, EORW bit by bit; N and Z from the result; V, C and I kept. The spec's
own decisions D12, D13, D15 (log 17). -/
def Obligations.WordLogicResultsAndFlags : Prop :=
  ∀ (s : State) (x y : WReg) (i : Instr) (bit : Bool → Bool → Bool),
    ((i = .notw x ∧ bit = fun a _ => !a) ∨ (i = .andw x y ∧ bit = fun a b => a && b) ∨
      (i = .orw x y ∧ bit = fun a b => a || b) ∨ (i = .eorw x y ∧ bit = fun a b => a != b)) →
    ∃ t, exec i s = .next t ∧
      (∀ k < 16, (t.getW x).getLsbD k = bit ((s.getW x).getLsbD k) ((s.getW y).getLsbD k)) ∧
      t.fl = { s.fl with n := decide (32768 ≤ (t.getW x).toNat), z := decide ((t.getW x).toNat = 0) } ∧
      SameWBut x s t ∧ t.sp = s.sp ∧ SameMemBut [] s t ∧ t.pc.toNat = (s.pc.toNat + 2) % 65536

/-- R9, R200, R210, R212, R214: ADDW, ADCW, INCW, as the byte forms at 16 bits. The spec's own decisions D12 to D16
(log 17). -/
def Obligations.WordAddsResultsAndFlags : Prop :=
  ∀ (s : State) (x y : WReg) (i : Instr) (b : Word) (cin : Bool),
    (i, b, cin) ∈ ([(.addw x y, s.getW y, false), (.adcw x y, s.getW y, s.fl.c), (.incw x, 1, false)] :
      List (Instr × Word × Bool)) →
    ∃ t, exec i s = .next t ∧ (t.getW x).toNat = ((s.getW x).toNat + b.toNat + cin.toNat) % 65536 ∧
      t.fl =
        { i := s.fl.i
          n := decide (32768 ≤ (t.getW x).toNat)
          v := decide ((s.getW x).toInt + b.toInt + cin.toNat < -32768 ∨
            32767 < (s.getW x).toInt + b.toInt + cin.toNat)
          z := decide ((t.getW x).toNat = 0)
          c := decide (65536 ≤ (s.getW x).toNat + b.toNat + cin.toNat) } ∧
      SameWBut x s t ∧ t.sp = s.sp ∧ SameMemBut [] s t ∧ t.pc.toNat = (s.pc.toNat + 2) % 65536

/-- R9, R161, R200, R209, R211, R213, R215: SUBW, SBBW, DECW, NEGW, as the byte forms at 16 bits. The spec's own
decisions D12 to D16 (log 17). -/
def Obligations.WordSubtractsResultsAndFlags : Prop :=
  ∀ (s : State) (x y : WReg) (i : Instr) (a b : Word) (borrow : Nat),
    (i, a, b, borrow) ∈ ([(.subw x y, s.getW x, s.getW y, 0), (.sbbw x y, s.getW x, s.getW y, 1 - s.fl.c.toNat),
      (.decw x, s.getW x, 1, 0), (.negw x, 0, s.getW x, 0)] : List (Instr × Word × Word × Nat)) →
    ∃ t, exec i s = .next t ∧ ((t.getW x).toNat : Int) = ((a.toNat : Int) - b.toNat - borrow) % 65536 ∧
      t.fl =
        { i := s.fl.i
          n := decide (32768 ≤ (t.getW x).toNat)
          v := decide (a.toInt - b.toInt - borrow < -32768 ∨ 32767 < a.toInt - b.toInt - borrow)
          z := decide ((t.getW x).toNat = 0)
          c := decide (b.toNat + borrow ≤ a.toNat) } ∧
      SameWBut x s t ∧ t.sp = s.sp ∧ SameMemBut [] s t ∧ t.pc.toNat = (s.pc.toNat + 2) % 65536

/-- R11, R200, R216, R218, R220, R222, R223: SHLW1, SHRW1, SARW1, RORW, ROLW, as the byte forms at 16 bits. The spec's
own decisions D13, D15, D17 (log 17). -/
def Obligations.WordOneBitShiftsResultsAndFlags : Prop :=
  ∀ (s : State) (x : WReg) (i : Instr) (r : Nat) (c : Bool),
    (let a := (s.getW x).toNat
     (i, r, c) ∈ ([(.shlw1 x, 2 * a % 65536, decide (32768 ≤ a)), (.shrw1 x, a / 2, decide (a % 2 = 1)),
       (.sarw1 x, a / 2 + 32768 * (a / 32768), decide (a % 2 = 1)),
       (.rorw x, a / 2 + 32768 * (a % 2), decide (a % 2 = 1)),
       (.rolw x, 2 * a % 65536 + a / 32768, decide (32768 ≤ a))] : List (Instr × Nat × Bool))) →
    ∃ t, exec i s = .next t ∧ (t.getW x).toNat = r ∧
      t.fl = { i := s.fl.i, n := decide (32768 ≤ r), v := s.fl.v, z := decide (r = 0), c := c } ∧
      SameWBut x s t ∧ t.sp = s.sp ∧ SameMemBut [] s t ∧ t.pc.toNat = (s.pc.toNat + 2) % 65536

/-- R12, R200, R217, R219, R221: SHLWB, SHRWB, SARWB by all 8 bits of a B register, which may be a half of the shifted
register; as the byte forms at 16 bits. The spec's own decisions D13, D15, D17, D18 (log 17). -/
def Obligations.WordCountedShiftsResultsAndFlags : Prop :=
  ∀ (s : State) (x : WReg) (y : BReg) (i : Instr) (r : Int) (c : Bool),
    (let a := s.getW x
     let cnt := (s.getB y).toNat
     (i, r, c) ∈ ([
       (.shlwb x y, ((a.toNat * 2 ^ cnt % 65536 : Nat) : Int),
         if cnt = 0 then s.fl.c else if cnt ≤ 16 then a.getLsbD (16 - cnt) else false),
       (.shrwb x y, ((a.toNat / 2 ^ cnt : Nat) : Int),
         if cnt = 0 then s.fl.c else if cnt ≤ 16 then a.getLsbD (cnt - 1) else false),
       (.sarwb x y, a.toInt / 2 ^ cnt % 65536,
         if cnt = 0 then s.fl.c else if cnt < 16 then a.getLsbD (cnt - 1) else a.msb)] :
       List (Instr × Int × Bool))) →
    ∃ t, exec i s = .next t ∧ ((t.getW x).toNat : Int) = r ∧
      t.fl = { i := s.fl.i, n := decide (32768 ≤ r), v := s.fl.v, z := decide (r = 0), c := c } ∧
      SameWBut x s t ∧ t.sp = s.sp ∧ SameMemBut [] s t ∧ t.pc.toNat = (s.pc.toNat + 2) % 65536

/-- R161: ADDB then ADCB on the two halves leave the word that ADDW leaves and its N, V and C, and SUBB then SBBB those
of SUBW. Z, which is that of the high byte alone, and PC, which is past two instructions, may differ. The spec's own
inference from the jump aliases, and its decision D14 (log 17). -/
def Obligations.CarryChainsMakeWordArithmetic : Prop :=
  ∀ (s : State) (x y : WReg),
    (∃ t u v, exec (.addb (loHalf x) (loHalf y)) s = .next t ∧ exec (.adcb (hiHalf x) (hiHalf y)) t = .next u ∧
      exec (.addw x y) s = .next v ∧ (∀ r : BReg, u.getB r = v.getB r) ∧ u.fl.n = v.fl.n ∧ u.fl.v = v.fl.v ∧
      u.fl.c = v.fl.c) ∧
    (∃ t u v, exec (.subb (loHalf x) (loHalf y)) s = .next t ∧ exec (.sbbb (hiHalf x) (hiHalf y)) t = .next u ∧
      exec (.subw x y) s = .next v ∧ (∀ r : BReg, u.getB r = v.getB r) ∧ u.fl.n = v.fl.n ∧ u.fl.v = v.fl.v ∧
      u.fl.c = v.fl.c)

/-! ## Branching (spec 43_branching.md) -/

/-- R240, R241, R242, R243: J_R, J_A, J_X change PC alone. The relative target is the address after the 2-byte jump
plus the signed displacement, mod 2^16. The spec's own decisions D6, D7, D8 (log 17). -/
def Obligations.JumpsChangeOnlyThePc : Prop :=
  ∀ (s : State) (d : Byte) (imm : Word) (x : WReg),
    (∃ p : Word, exec (.jR d) s = .next { s with pc := p } ∧
      (p.toNat : Int) = ((s.pc.toNat : Int) + 2 + d.toInt) % 65536) ∧
    exec (.jA imm) s = .next { s with pc := imm } ∧ exec (.jX x) s = .next { s with pc := s.getW x }

/-- R240 (6), R244, R245, R246: C_R, C_A, C_X push the address of the instruction after the call, low byte at SP - 2,
and go to the target. The spec's own decisions D6, D7, D8, D10 (log 17). -/
def Obligations.CallsPushTheReturnAddress : Prop :=
  ∀ (s : State) (d : Byte) (imm : Word) (x : WReg) (i : Instr) (target : Int) (len : Nat),
    (i, target, len) ∈ ([(.cR d, ((s.pc.toNat : Int) + 2 + d.toInt) % 65536, 2), (.cA imm, (imm.toNat : Int), 3),
      (.cX x, ((s.getW x).toNat : Int), 2)] : List (Instr × Int × Nat)) →
    ∃ t, exec i s = .next t ∧ (t.pc.toNat : Int) = target ∧ t.sp = s.sp - 2 ∧
      (t.mem.readByte (s.sp - 2)).toNat = (s.pc.toNat + len) % 65536 % 256 ∧
      (t.mem.readByte (s.sp - 1)).toNat = (s.pc.toNat + len) % 65536 / 256 ∧
      SameMemBut [s.sp - 2, s.sp - 1] s t ∧ t.regs = s.regs ∧ t.fl = s.fl

/-- R65, R247, R302, R303: INT n pushes the address after it, then the flag image, and goes where the platform's
IntTarget says, from the bytes it reads AFTER both pushes, whatever FL.I is; no flag changes. In `exec` IntTarget is
the default that the model takes (log 7): the little-endian word at 0xFFE0 + 2(n - 1). The spec's own decisions D7,
D10, D11, D20, D21, D28 (log 17). -/
def Obligations.IntEntersThroughItsVector : Prop :=
  ∀ (s : State) (n : Nat), 1 ≤ n → n ≤ 16 →
    (∃ t, exec (.int n) s = .next t ∧ SavedForHandler s t (s.pc + 1) ∧
      t.pc = t.mem.readByte (0xFFE0 + BitVec.ofNat 16 (2 * (n - 1)) + 1) ++
        t.mem.readByte (0xFFE0 + BitVec.ofNat 16 (2 * (n - 1)))) ∧
    ∀ p : Platform, ∃ t, execOn p (.int n) s = .next t ∧ SavedForHandler s t (s.pc + 1) ∧
      t.pc = p.intTarget.target n ((p.intTarget.reads n).map t.mem.readByte)

/-- R240, R248 to R261: the fourteen conditional jumps, each with its condition on the flags, go to the relative
target where it holds and to the next instruction where it does not, and change nothing else. JBE's condition is the
spec's resolved reading (90_conflicts.md C1). The spec's own decisions D6, D7, D8, D29 (logs 11, 17). -/
def Obligations.ConditionalJumpsFollowTheirConditions : Prop :=
  ∀ (s : State) (d : Byte) (i : Instr) (cond : Prop),
    (let f := s.fl
     (i = .jz d ∧ (cond ↔ f.z = true)) ∨ (i = .jnz d ∧ (cond ↔ f.z = false)) ∨
     (i = .jc d ∧ (cond ↔ f.c = true)) ∨ (i = .jnc d ∧ (cond ↔ f.c = false)) ∨
     (i = .jn d ∧ (cond ↔ f.n = true)) ∨ (i = .jnn d ∧ (cond ↔ f.n = false)) ∨
     (i = .jv d ∧ (cond ↔ f.v = true)) ∨ (i = .jnv d ∧ (cond ↔ f.v = false)) ∨
     (i = .ja d ∧ (cond ↔ f.c = true ∧ f.z = false)) ∨ (i = .jbe d ∧ (cond ↔ f.c = false ∨ f.z = true)) ∨
     (i = .jge d ∧ (cond ↔ f.n = f.v)) ∨ (i = .jl d ∧ (cond ↔ f.n ≠ f.v)) ∨
     (i = .jg d ∧ (cond ↔ f.z = false ∧ f.n = f.v)) ∨ (i = .jle d ∧ (cond ↔ f.z = true ∨ f.n ≠ f.v))) →
    ∃ p : Word, exec i s = .next { s with pc := p } ∧
      (cond → (p.toNat : Int) = ((s.pc.toNat : Int) + 2 + d.toInt) % 65536) ∧
      (¬cond → p.toNat = (s.pc.toNat + 2) % 65536)

/-- R5, R247, R257: no instruction but INT and JBE depends on a parameter of the platform; JBE goes by JBE_COND, at the
resolved reading where C is 0 or Z is 1, at the printed one where C is 0 and Z is 1. INT's target is
`IntEntersThroughItsVector`. The spec's own decisions D6, D7, D20, D29 (logs 7, 11, 17). -/
def Obligations.PlatformChoosesOnlyIntTargetAndJbeCondition : Prop :=
  ∀ (p : Platform) (s : State),
    (∀ i : Instr, i.op ∉ Op.intOps → i.op ≠ .jbe → execOn p i s = exec i s) ∧
    ∀ (d : Byte) (taken : Prop),
      (taken ↔ (p.jbeCond = .resolved ∧ (s.fl.c = false ∨ s.fl.z = true)) ∨
        (p.jbeCond = .printed ∧ s.fl.c = false ∧ s.fl.z = true)) →
      ∃ q : Word, execOn p (.jbe d) s = .next { s with pc := q } ∧
        (taken → (q.toNat : Int) = ((s.pc.toNat : Int) + 2 + d.toInt) % 65536) ∧
        (¬taken → q.toNat = (s.pc.toNat + 2) % 65536)

/-- R262, R263, R306: RET pops PC; IRET pops the flag image, then PC. The spec's own decisions D8, D10, D11, D28 (log
17). -/
def Obligations.ReturnsPopThePc : Prop :=
  ∀ s : State,
    exec .ret s = .next { s with pc := s.mem.readByte (s.sp + 1) ++ s.mem.readByte s.sp, sp := s.sp + 2 } ∧
    exec .iret s = .next { s with
      pc := s.mem.readByte (s.sp + 3) ++ s.mem.readByte (s.sp + 2)
      sp := s.sp + 4
      fl := { i := (s.mem.readByte s.sp).getLsbD 4, n := (s.mem.readByte s.sp).getLsbD 3,
              v := (s.mem.readByte s.sp).getLsbD 2, z := (s.mem.readByte s.sp).getLsbD 1,
              c := (s.mem.readByte s.sp).getLsbD 0 } }

/-- R263, R306: whatever a handler did to the registers and the flags, if SP and the four bytes INT stored are as INT
left them, IRET goes to the instruction after the INT with the flags and SP it had, keeping the handler's registers
and memory, wherever the platform's IntTarget has the handler. The spec's own decisions D7, D10, D11, D28 (log 17). -/
def Obligations.IretUndoesInt : Prop :=
  ∀ (p : Platform) (s : State) (n : Nat), 1 ≤ n → n ≤ 16 →
    ∃ t, execOn p (.int n) s = .next t ∧ ∀ h : State, h.sp = t.sp →
      (∀ a ∈ [s.sp - 4, s.sp - 3, s.sp - 2, s.sp - 1], h.mem.readByte a = t.mem.readByte a) →
      execOn p .iret h = .next { h with pc := s.pc + 1, sp := s.sp, fl := s.fl }

/-- R25, R244 to R246, R262: whatever a subroutine did, if SP and the two bytes the call stored are as the call left
them, RET goes to the instruction after the call and restores SP. The spec's own decisions D7, D8, D10 (log 17). -/
def Obligations.RetUndoesCalls : Prop :=
  ∀ (s : State) (d : Byte) (imm : Word) (x : WReg) (i : Instr) (len : Nat),
    (i, len) ∈ ([(.cR d, 2), (.cA imm, 3), (.cX x, 2)] : List (Instr × Nat)) →
    ∃ t, exec i s = .next t ∧ ∀ h : State, h.sp = t.sp →
      (∀ a ∈ [s.sp - 2, s.sp - 1], h.mem.readByte a = t.mem.readByte a) →
      exec .ret h = .next { h with pc := s.pc + BitVec.ofNat 16 len, sp := s.sp }

/-- R241, R316: the jump with displacement 0xFE is the one-instruction endless loop: where memory at PC holds it, any
number of steps leaves the state as it is. The spec's own decisions D1, D6, D7, D8 (logs 6, 17). -/
def Obligations.SelfJumpLoopsForever : Prop :=
  ∀ s : State, s.mem.readByte s.pc = 0x70 → s.mem.readByte (s.pc + 1) = 0xFE → ∀ k : Nat, Sys2Proof.core.run k s = .next s

/-- R264, for bytes: after `SUB a b` the fourteen conditions mean the comparisons of the values before it. The spec's
own inference, on its decisions D14, D15, D29 (logs 11, 17). -/
def Obligations.ConditionsAfterByteSubtraction : Prop :=
  ∀ (s : State) (x y : BReg) (d : Byte),
    ∃ t, exec (.subb x y) s = .next t ∧ ∀ (j : Instr) (cond : Prop),
      (let a := s.getB x
       let b := s.getB y
       let diff := a.toInt - b.toInt
       (j = .jz d ∧ (cond ↔ a = b)) ∨ (j = .jnz d ∧ (cond ↔ a ≠ b)) ∨
       (j = .jc d ∧ (cond ↔ b.toNat ≤ a.toNat)) ∨ (j = .jnc d ∧ (cond ↔ a.toNat < b.toNat)) ∨
       (j = .ja d ∧ (cond ↔ b.toNat < a.toNat)) ∨ (j = .jbe d ∧ (cond ↔ a.toNat ≤ b.toNat)) ∨
       (j = .jge d ∧ (cond ↔ b.toInt ≤ a.toInt)) ∨ (j = .jl d ∧ (cond ↔ a.toInt < b.toInt)) ∨
       (j = .jg d ∧ (cond ↔ b.toInt < a.toInt)) ∨ (j = .jle d ∧ (cond ↔ a.toInt ≤ b.toInt)) ∨
       (j = .jn d ∧ (cond ↔ (t.getB x).toInt < 0)) ∨ (j = .jnn d ∧ (cond ↔ 0 ≤ (t.getB x).toInt)) ∨
       (j = .jv d ∧ (cond ↔ diff < -128 ∨ 127 < diff)) ∨ (j = .jnv d ∧ (cond ↔ -128 ≤ diff ∧ diff ≤ 127))) →
      (cond → exec j t = .next { t with pc := t.pc + 2 + d.signExtend 16 }) ∧
      (¬cond → exec j t = .next { t with pc := t.pc + 2 })

/-- R264, for words. The spec's own inference, on its decisions D14, D15, D29 (logs 11, 17). -/
def Obligations.ConditionsAfterWordSubtraction : Prop :=
  ∀ (s : State) (x y : WReg) (d : Byte),
    ∃ t, exec (.subw x y) s = .next t ∧ ∀ (j : Instr) (cond : Prop),
      (let a := s.getW x
       let b := s.getW y
       let diff := a.toInt - b.toInt
       (j = .jz d ∧ (cond ↔ a = b)) ∨ (j = .jnz d ∧ (cond ↔ a ≠ b)) ∨
       (j = .jc d ∧ (cond ↔ b.toNat ≤ a.toNat)) ∨ (j = .jnc d ∧ (cond ↔ a.toNat < b.toNat)) ∨
       (j = .ja d ∧ (cond ↔ b.toNat < a.toNat)) ∨ (j = .jbe d ∧ (cond ↔ a.toNat ≤ b.toNat)) ∨
       (j = .jge d ∧ (cond ↔ b.toInt ≤ a.toInt)) ∨ (j = .jl d ∧ (cond ↔ a.toInt < b.toInt)) ∨
       (j = .jg d ∧ (cond ↔ b.toInt < a.toInt)) ∨ (j = .jle d ∧ (cond ↔ a.toInt ≤ b.toInt)) ∨
       (j = .jn d ∧ (cond ↔ (t.getW x).toInt < 0)) ∨ (j = .jnn d ∧ (cond ↔ 0 ≤ (t.getW x).toInt)) ∨
       (j = .jv d ∧ (cond ↔ diff < -32768 ∨ 32767 < diff)) ∨
       (j = .jnv d ∧ (cond ↔ -32768 ≤ diff ∧ diff ≤ 32767))) →
      (cond → exec j t = .next { t with pc := t.pc + 2 + d.signExtend 16 }) ∧
      (¬cond → exec j t = .next { t with pc := t.pc + 2 })

/-! ## Misc (spec 44_misc.md) -/

/-- R280 to R291: NOP changes PC alone; each set or clear instruction writes the one flag its action names, and PC.
For STI and CLI the spec's own decision D21 (log 17). -/
def Obligations.FlagInstructionsWriteOneFlag : Prop :=
  ∀ (s : State) (i : Instr) (f : Flags),
    (i, f) ∈ ([(.nop, s.fl), (.sti, { s.fl with i := true }), (.stc, { s.fl with c := true }),
      (.stz, { s.fl with z := true }), (.stv, { s.fl with v := true }), (.stn, { s.fl with n := true }),
      (.cli, { s.fl with i := false }), (.clc, { s.fl with c := false }), (.clz, { s.fl with z := false }),
      (.clv, { s.fl with v := false }), (.cln, { s.fl with n := false })] : List (Instr × Flags)) →
    exec i s = .next { s with fl := f, pc := s.pc + 1 }

/-- R292: LEA writes the address after itself plus the immediate, mod 2^16, and no flag. The spec's own decisions D5,
D7, D8, D13 (log 17). -/
def Obligations.LeaAddsToTheNextAddress : Prop :=
  ∀ (s : State) (x : WReg) (imm : Word),
    ∃ t, exec (.lea x imm) s = .next t ∧ (t.getW x).toNat = (s.pc.toNat + 4 + imm.toNat) % 65536 ∧ SameWBut x s t ∧
      t.sp = s.sp ∧ t.fl = s.fl ∧ SameMemBut [] s t ∧ t.pc.toNat = (s.pc.toNat + 4) % 65536

/-! ## Rules of the whole machine -/

/-- R31: the instructions that may write each flag; every other instruction leaves it. The spec's own decision D13
(log 17). -/
def Obligations.OnlyListedInstructionsWriteEachFlag : Prop :=
  ∀ (i : Instr) (s t : State), exec i s = .next t →
    (let whole : List Op := [.popf, .iret]
     let arith : List Op := [.negb, .incb, .decb, .addb, .subb, .adcb, .sbbb, .negw, .incw, .decw, .addw, .subw, .adcw,
       .sbbw]
     let logic : List Op := [.notb, .andb, .orb, .eorb, .notw, .andw, .orw, .eorw]
     let shifts : List Op := [.shlb1, .shlb, .shrb1, .shrb, .sarb1, .sarb, .rorb, .rolb, .shlw1, .shlwb, .shrw1, .shrwb,
       .sarw1, .sarwb, .rorw, .rolw]
     (i.op ∉ whole ++ [.sti, .cli] → t.fl.i = s.fl.i) ∧
     (i.op ∉ whole ++ arith ++ logic ++ shifts ++ [.stn, .cln] → t.fl.n = s.fl.n) ∧
     (i.op ∉ whole ++ arith ++ [.stv, .clv] → t.fl.v = s.fl.v) ∧
     (i.op ∉ whole ++ arith ++ logic ++ shifts ++ [.stz, .clz] → t.fl.z = s.fl.z) ∧
     (i.op ∉ whole ++ arith ++ shifts ++ [.stc, .clc] → t.fl.c = s.fl.c))

/-- R32: what reads each flag. For each flag, its listed readers and no others: an instruction that is not listed does
the same to the registers, PC, SP, memory and the other flags whatever the flag is; and of every listed opcode some
instruction, in some state, does not. -/
def Obligations.OnlyListedInstructionsReadEachFlag : Prop :=
  ∀ (set : Flags → Bool → Flags) (readers : List Op),
    (set, readers) ∈ ([
      (fun f b => { f with c := b }, [.adcb, .sbbb, .adcw, .sbbw, .jc, .jnc, .ja, .jbe]),
      (fun f b => { f with z := b }, [.jz, .jnz, .ja, .jbe, .jg, .jle]),
      (fun f b => { f with n := b }, [.jn, .jnn, .jge, .jl, .jg, .jle]),
      (fun f b => { f with v := b }, [.jv, .jnv, .jge, .jl, .jg, .jle]),
      (fun f b => { f with i := b }, [])] : List ((Flags → Bool → Flags) × List Op)) →
    (∀ (i : Instr) (s t : State) (b : Bool), i.op ∉ readers ++ [.pushf] ++ Op.intOps → exec i s = .next t →
      ∃ b' : Bool, exec i { s with fl := set s.fl b } = .next { t with fl := set t.fl b' }) ∧
    (∀ o ∈ readers ++ [.pushf] ++ Op.intOps, ∃ (i : Instr) (s t t' : State) (b : Bool), i.op = o ∧ exec i s = .next t ∧
      exec i { s with fl := set s.fl b } = .next t' ∧ ∀ b' : Bool, t' ≠ { t with fl := set t.fl b' })

/-- R27, R59, R62, R240 (2), R302, R306: the instructions that may write SP, a B register, or memory; every other
instruction leaves them, and those that store leave every byte but the ones they store to. The spec's own decisions
D10, D12, D19 (log 17). -/
def Obligations.OnlyListedInstructionsWriteSpRegistersMemory : Prop :=
  ∀ (i : Instr) (s t : State), exec i s = .next t →
    (i.op ∉ [.pushf, .push, .popf, .pop, .movsw, .cR, .cA, .cX, .ret, .iret] ++ Op.intOps → t.sp = s.sp) ∧
    (i.op ∈ Op.branchOps ++ Op.intOps ++ Op.modes .srb ++ Op.modes .srw ++
        [.pushf, .push, .popf, .movsw, .nop, .sti, .stc, .stz, .stv, .stn, .cli, .clc, .clz, .clv, .cln] →
      t.regs = s.regs) ∧
    (i.op ∉ Op.modes .srb ++ Op.modes .srw ++ [.pushf, .push, .cR, .cA, .cX] ++ Op.intOps → SameMemBut [] s t) ∧
    SameMemBut (dataWrites i s) s t

/-- R59, R63, R65, R96: what a step does depends on the registers, the flags, the bytes of the instruction and the
data bytes it reads, and on no other byte of memory: two states that agree on those take steps that agree on every
register and flag, and on every byte stored or equal before. The spec's own decisions D26, D28 (log 17). -/
def Obligations.StepDependsOnlyOnWhatItReads : Prop :=
  ∀ (s s' t : State) (i : Instr) (rest : List Byte), s.fetch = .ok i rest → step s = .next t →
    s'.regs = s.regs → s'.pc = s.pc → s'.sp = s.sp → s'.fl = s.fl →
    (∀ a ∈ fetchAddrs s i.length ++ dataReads intTarget i s, s'.mem.readByte a = s.mem.readByte a) →
    ∃ t', step s' = .next t' ∧ t'.regs = t.regs ∧ t'.pc = t.pc ∧ t'.sp = t.sp ∧ t'.fl = t.fl ∧
      ∀ a : Word, (a ∈ dataWrites i s ∨ s'.mem.readByte a = s.mem.readByte a) → t'.mem.readByte a = t.mem.readByte a

/-! ## The platform (spec 60_exceptions.md, 20_memory.md R56, 70_reset_and_hazards.md R338) -/

/-- R5, R55, R304, R338: at the default parameters an instruction does on the platform what it does in the core, with
no request presented a platform step is the core's step, and no run ends at a halt address. The spec's own decisions
D1, D20, D21, D24, D27, D29 (logs 6 to 11). -/
def Obligations.DefaultPlatformIsTheCore : Prop :=
  (∀ (i : Instr) (s : State), execOn defaultPlatform i s = exec i s) ∧
  (∀ s : State, platformStep defaultPlatform none s = step s) ∧
  ∀ (reqs : List (Option (BitVec 4))) (s t : State), runOn defaultPlatform reqs s ≠ .ended t

/-- R302, R304, R305: a presented request is left with the platform when I is 0; when I is 1 it is taken before the
fetch, whatever stands at PC: entry as by INT with the current PC as return address, no flag changed, to where the
platform's IntTarget says. At the default platform that is the word at 0xFFE0 + 2v, for the request v = vector - 1:
the default of IntTarget that the model takes (log 7, D20). The entry follows the spec's own decisions D10 and D11, the reading
of IRQ its decision D21 (logs 9, 17); that taking a request is a step of its own is the model's choice (log 18). -/
def Obligations.RequestsAreTakenOnlyWhenIIsSet : Prop :=
  ∀ (s : State) (v : BitVec 4),
    (s.fl.i = false → platformStep defaultPlatform (some v) s = step s ∧
      ∀ p : Platform, platformStep p (some v) s = platformStep p none s) ∧
    (s.fl.i = true →
      (∃ t, platformStep defaultPlatform (some v) s = .next t ∧ SavedForHandler s t s.pc ∧
        t.pc = t.mem.readWord (0xFFE0 + BitVec.ofNat 16 (2 * v.toNat))) ∧
      ∀ p : Platform, p.holes = [] → ∃ t, platformStep p (some v) s = .next t ∧ SavedForHandler s t s.pc ∧
        t.pc = p.intTarget.target (v.toNat + 1) ((p.intTarget.reads (v.toNat + 1)).map t.mem.readByte))

/-- R56, R97, R302, R304, R309: an address is not plain memory exactly where it lies in a hole of the supplied map,
counted from the hole's base mod 2^16. A step that accesses such an address is refused, naming one; a step whose
accesses are all to plain memory answers as without a map. The accesses are: of an instruction, its own bytes and its
data; of a rejected fetch, the bytes it read; of a taken request, the four bytes pushed and those IntTarget reads. The
spec's own decision D24; the refusal is the model's choice (log 8). That a rejected fetch answers IllegalInstruction
with the address and the bytes read is the spec's own decision D22 (log 13). What a taken request does is its reading
D21 of IRQ (log 9), with the entry of D10 and D11 (log 17); that taking it is the whole of a step is the model's choice
(log 18). -/
def Obligations.AccessesOutsidePlainMemoryAreRefused : Prop :=
  ∀ (p : Platform) (s : State) (req : Option (BitVec 4)),
    (∀ a : Word, isPlain p a = false ↔ ∃ h ∈ p.holes, ∃ k < h.size, a = h.base + BitVec.ofNat 16 k) ∧
    (req = none ∨ s.fl.i = false →
      (∀ (i : Instr) (rest : List Byte), s.fetchWith p.opc = .ok i rest →
        Guarded p (fetchAddrs s i.length ++ dataWrites i s ++ dataReads p.intTarget i s) (platformStep p req s)
          (execOn p i s)) ∧
      (∀ r : DecodeReject, s.fetchWith p.opc = .reject r →
        Guarded p (fetchAddrs s r.bytes.length) (platformStep p req s)
          (.fault (.illegalInstruction s.pc r.bytes)))) ∧
    (∀ v : BitVec 4, req = some v → s.fl.i = true →
      Guarded p ([s.sp - 4, s.sp - 3, s.sp - 2, s.sp - 1] ++ p.intTarget.reads (v.toNat + 1)) (platformStep p req s)
        (.next (s.enterVector p.intTarget s.pc (v.toNat + 1))))

/-- R338: a run goes on by its steps until PC is HALT_PC at the start of a step, where it ends normally with the
instruction there not executed; it ends normally nowhere else, and a step that stops with a fault or a refusal ends it
so. The spec's own decision D27. That a run at HALT_PC ends before a request presented there is examined is the model's
choice, which the spec leaves open (log 10). -/
def Obligations.RunsEndOnlyAtHaltPc : Prop :=
  (∀ (p : Platform) (reqs : List (Option (BitVec 4))) (s : State), p.haltPC = some s.pc → runOn p reqs s = .ended s) ∧
  (∀ (p : Platform) (reqs : List (Option (BitVec 4))) (s t : State), EndsIn p reqs s t → p.haltPC = some t.pc) ∧
  (∀ (p : Platform) (req : Option (BitVec 4)) (reqs : List (Option (BitVec 4))) (s : State), p.haltPC ≠ some s.pc →
    runOn p [] s = .running s ∧
    (∀ t : State, platformStep p req s = .next t → runOn p (req :: reqs) s = runOn p reqs t) ∧
    (∀ f : Fault, platformStep p req s = .fault f → runOn p (req :: reqs) s = .faulted f) ∧
    (∀ r : Refusal, platformStep p req s = .refused r → runOn p (req :: reqs) s = .refused r))
end

