-- ==== Sys2Proof/Laws/Flags.lean ====
section
/-! SUPPORT. What each flag helper writes, and what it leaves. -/

namespace Sys2Proof.Machine

section Helpers
variable {w : Nat} (a b r : BitVec w) (cin c : Bool) (f : Flags) (rec : AddRec w)

/-- The adder's result is the exact sum mod 2^N (R9). -/
theorem addC_result : (addC a b cin).r.toNat = (a.toNat + b.toNat + cin.toNat) % 2 ^ w := by
  simp [addC]

/-- The adder's carry is the carry out of the top bit (R9). -/
theorem addC_carry : (addC a b cin).c = decide (2 ^ w ≤ a.toNat + b.toNat + cin.toNat) := rfl

/-- The adder's sign and zero are those of its result (R9). -/
theorem addC_sign : (addC a b cin).n = (addC a b cin).r.msb := rfl
theorem addC_zero : (addC a b cin).z = decide ((addC a b cin).r = 0) := rfl

/-- The adder overflows when equal top bits give a different one (R9). -/
theorem addC_overflow :
    (addC a b cin).v = (decide (a.msb = b.msb) && decide ((addC a b cin).r.msb ≠ a.msb)) := rfl

@[simp] theorem setNZ_i : (f.setNZ r).i = f.i := rfl
@[simp] theorem setNZ_n : (f.setNZ r).n = r.msb := rfl
@[simp] theorem setNZ_v : (f.setNZ r).v = f.v := rfl
@[simp] theorem setNZ_z : (f.setNZ r).z = decide (r = 0) := rfl
@[simp] theorem setNZ_c : (f.setNZ r).c = f.c := rfl

@[simp] theorem setNVZC_i : (f.setNVZC rec).i = f.i := rfl
@[simp] theorem setNVZC_n : (f.setNVZC rec).n = rec.n := rfl
@[simp] theorem setNVZC_v : (f.setNVZC rec).v = rec.v := rfl
@[simp] theorem setNVZC_z : (f.setNVZC rec).z = rec.z := rfl
@[simp] theorem setNVZC_c : (f.setNVZC rec).c = rec.c := rfl

@[simp] theorem setShift_i : (f.setShift r c).i = f.i := rfl
@[simp] theorem setShift_n : (f.setShift r c).n = r.msb := rfl
@[simp] theorem setShift_v : (f.setShift r c).v = f.v := rfl
@[simp] theorem setShift_z : (f.setShift r c).z = decide (r = 0) := rfl
@[simp] theorem setShift_c : (f.setShift r c).c = c := rfl

@[simp] theorem shN_zero (k : ShiftKind) : shN k 0 a c = (a, c) := rfl
@[simp] theorem shN_succ (k : ShiftKind) (n : Nat) : shN k (n + 1) a c = shN k n (sh1 k a).1 (sh1 k a).2 := rfl

end Helpers

end Sys2Proof.Machine
end

