-- ==== Sys2Proof/Laws/Memory.lean ====
section
/-! SUPPORT. The laws of memory: a read after a write to the same place gives the value written, a write leaves every
other place alone, and every write keeps the canonical form. -/

namespace Sys2Proof.Machine

theorem read_eraseByte (m : Memory) (a k : Nat) :
    (m.eraseByte a).read k = if k = a then Config.unwrittenByte else m.read k := by
  induction m with
  | nil => simp [Memory.eraseByte, Memory.read]
  | cons e m ih =>
    obtain ⟨j, b⟩ := e
    simp only [Memory.eraseByte, Memory.read]
    split
    · rw [ih]; split
      · rfl
      · rw [if_neg]; omega
    · simp only [Memory.read]; split
      · rw [if_neg]; omega
      · exact ih

/-- An entry put before the entries of larger addresses is found, and hides no other. -/
theorem read_insertByte (m : Memory) (a k : Nat) (v : Byte)
    (hno : ∀ b, (a, b) ∉ m) : (m.insertByte a v).read k = if k = a then v else m.read k := by
  induction m with
  | nil => simp only [Memory.insertByte, Memory.read, eq_comm]
  | cons e m ih =>
    obtain ⟨j, b⟩ := e
    have hj : j ≠ a := fun he => hno b (by simp [he])
    have ih := ih (fun b hb => hno b (List.mem_cons_of_mem _ hb))
    simp only [Memory.insertByte]
    split
    · simp only [Memory.read, eq_comm]
    · simp only [Memory.read, ih]
      split
      · rw [if_neg]; omega
      · rfl

theorem not_mem_eraseByte (m : Memory) (a : Nat) (b : Byte) : (a, b) ∉ m.eraseByte a := by
  induction m with
  | nil => simp [Memory.eraseByte]
  | cons e m ih =>
    obtain ⟨j, c⟩ := e
    simp only [Memory.eraseByte]
    split
    · exact ih
    · simp only [List.mem_cons, Prod.mk.injEq, not_or, not_and]
      exact ⟨fun he => by omega, ih⟩

/-- A read after a write, at any two addresses, of any memory (R53). -/
theorem read_write (m : Memory) (a k : Nat) (v : Byte) :
    (m.write a v).read k = if k = a then v else m.read k := by
  simp only [Memory.write]
  split
  · rename_i hv; rw [read_eraseByte, hv]
  · rw [read_insertByte _ _ _ _ (fun b => not_mem_eraseByte m a b), read_eraseByte]
    split <;> simp_all

@[simp] theorem readByte_writeByte_same (m : Memory) (a : Word) (v : Byte) : (m.writeByte a v).readByte a = v := by
  simp [Memory.readByte, Memory.writeByte, read_write]

theorem readByte_writeByte (m : Memory) (a k : Word) (v : Byte) :
    (m.writeByte a v).readByte k = if k = a then v else m.readByte k := by
  simp only [Memory.readByte, Memory.writeByte, read_write, ← BitVec.toNat_inj]

theorem readByte_writeByte_other (m : Memory) (a k : Word) (v : Byte) (h : k ≠ a) :
    (m.writeByte a v).readByte k = m.readByte k := by
  rw [readByte_writeByte, if_neg h]

/-- An address and the next one are different, mod 2^16. -/
theorem addr_succ_ne (a : Word) : a + 1 ≠ a := by
  intro h
  have : (a + 1).toNat = a.toNat := by rw [h]
  simp at this; omega

/-- Every byte after a word write: the two halves at `a` and `a + 1`, the rest as before (R51, R53). -/
theorem readByte_writeWord (m : Memory) (a k : Word) (v : Word) :
    (m.writeWord a v).readByte k =
      if k = a + 1 then v.extractLsb' 8 8 else if k = a then v.extractLsb' 0 8 else m.readByte k := by
  simp only [Memory.writeWord, readByte_writeByte]

theorem readByte_writeWord_other (m : Memory) (a k : Word) (v : Word) (h0 : k ≠ a) (h1 : k ≠ a + 1) :
    (m.writeWord a v).readByte k = m.readByte k := by
  rw [readByte_writeWord, if_neg h1, if_neg h0]

/-- A word read after a word write to the same address, 0xFFFF included (R57). -/
@[simp] theorem readWord_writeWord_same (m : Memory) (a : Word) (v : Word) : (m.writeWord a v).readWord a = v := by
  have hne : a ≠ a + 1 := fun h => addr_succ_ne a h.symm
  rw [Memory.readWord, readByte_writeWord, readByte_writeWord, if_pos rfl, if_neg hne, if_pos rfl]
  ext i hi
  simp only [BitVec.getElem_append, BitVec.getElem_extractLsb']
  split <;> rename_i h
  · simp [BitVec.getLsbD_eq_getElem hi]
  · have : 8 + (i - 8) = i := by omega
    simp [this, BitVec.getLsbD_eq_getElem hi]

/-- A word read that touches neither byte of a word write. -/
theorem readWord_writeWord_other (m : Memory) (a k : Word) (v : Word) (h0 : k ≠ a) (h1 : k ≠ a + 1) (h2 : k + 1 ≠ a) :
    (m.writeWord a v).readWord k = m.readWord k := by
  have h3 : k + 1 ≠ a + 1 := fun e => h0 (by
    have := congrArg (· - 1) e
    simpa using this)
  rw [Memory.readWord, Memory.readWord, readByte_writeWord_other _ _ _ _ h2 h3, readByte_writeWord_other _ _ _ _ h0 h1]

/-! The canonical form. -/

theorem wfFrom_mono (m : Memory) (lo lo' : Nat) (h : lo' ≤ lo) (hw : Memory.wfFrom lo m = true) :
    Memory.wfFrom lo' m = true := by
  cases m with
  | nil => rfl
  | cons e m =>
    obtain ⟨j, b⟩ := e
    simp only [Memory.wfFrom, Bool.and_eq_true, decide_eq_true_eq] at hw ⊢
    exact ⟨⟨⟨by omega, hw.1.1.2⟩, hw.1.2⟩, hw.2⟩

theorem wfFrom_eraseByte (m : Memory) (lo a : Nat) (hw : Memory.wfFrom lo m = true) :
    Memory.wfFrom lo (m.eraseByte a) = true := by
  induction m generalizing lo with
  | nil => rfl
  | cons e m ih =>
    obtain ⟨j, b⟩ := e
    simp only [Memory.wfFrom, Bool.and_eq_true, decide_eq_true_eq] at hw
    simp only [Memory.eraseByte]
    split
    · exact wfFrom_mono _ _ _ (by omega) (ih _ hw.2)
    · simp only [Memory.wfFrom, Bool.and_eq_true, decide_eq_true_eq]
      exact ⟨hw.1, ih _ hw.2⟩

theorem wfFrom_insertByte (m : Memory) (lo a : Nat) (v : Byte) (hlo : lo ≤ a) (ha : a < 65536)
    (hv : v ≠ Config.unwrittenByte) (hno : ∀ b, (a, b) ∉ m) (hw : Memory.wfFrom lo m = true) :
    Memory.wfFrom lo (m.insertByte a v) = true := by
  induction m generalizing lo with
  | nil => simp [Memory.insertByte, Memory.wfFrom, hlo, ha, hv]
  | cons e m ih =>
    obtain ⟨j, b⟩ := e
    have hj : j ≠ a := fun he => hno b (by simp [he])
    simp only [Memory.wfFrom, Bool.and_eq_true, decide_eq_true_eq] at hw
    simp only [Memory.insertByte]
    split
    · simp only [Memory.wfFrom, Bool.and_eq_true, decide_eq_true_eq]
      exact ⟨⟨⟨hlo, ha⟩, hv⟩, ⟨⟨by omega, hw.1.1.2⟩, hw.1.2⟩, hw.2⟩
    · simp only [Memory.wfFrom, Bool.and_eq_true, decide_eq_true_eq]
      exact ⟨hw.1, ih _ (by omega) (fun b hb => hno b (List.mem_cons_of_mem _ hb)) hw.2⟩

/-- A byte write keeps the canonical form. -/
theorem wf_write (m : Memory) (a : Nat) (v : Byte) (ha : a < 65536) (hw : m.wf = true) : (m.write a v).wf = true := by
  simp only [Memory.wf, Memory.write] at *
  split
  · exact wfFrom_eraseByte _ _ _ hw
  · rename_i hv
    exact wfFrom_insertByte _ _ _ _ (Nat.zero_le _) ha hv (fun b => not_mem_eraseByte m a b) (wfFrom_eraseByte _ _ _ hw)

theorem wf_writeByte (m : Memory) (a : Word) (v : Byte) (hw : m.wf = true) : (m.writeByte a v).wf = true :=
  wf_write m _ v a.isLt hw

theorem wf_writeWord (m : Memory) (a : Word) (v : Word) (hw : m.wf = true) : (m.writeWord a v).wf = true :=
  wf_writeByte _ _ _ (wf_writeByte _ _ _ hw)

theorem wf_writeBytes (bs : List Byte) (m : Memory) (a : Word) (hw : m.wf = true) : (m.writeBytes a bs).wf = true := by
  induction bs generalizing m a with
  | nil => exact hw
  | cons b bs ih => exact ih _ _ (wf_writeByte m a b hw)

/-- The memory right after reset is in canonical form. -/
theorem reset_mem_wf : State.reset.mem.wf = true := rfl

/-- Below the first listed address a canonical memory reads as unwritten. -/
theorem read_below (m : Memory) (lo a : Nat) (h : a < lo) (hw : Memory.wfFrom lo m = true) :
    m.read a = Config.unwrittenByte := by
  induction m generalizing lo with
  | nil => rfl
  | cons e m ih =>
    obtain ⟨j, b⟩ := e
    simp only [Memory.wfFrom, Bool.and_eq_true, decide_eq_true_eq] at hw
    simp only [Memory.read]
    rw [if_neg (by omega)]
    exact ih _ (by omega) hw.2

/-- Canonical memories that read the same at every address are the same list. -/
theorem wfFrom_ext (m m' : Memory) (lo : Nat) (hw : Memory.wfFrom lo m = true) (hw' : Memory.wfFrom lo m' = true)
    (h : ∀ a, m.read a = m'.read a) : m = m' := by
  induction m generalizing m' lo with
  | nil =>
    cases m' with
    | nil => rfl
    | cons e t =>
      obtain ⟨j, b⟩ := e
      simp only [Memory.wfFrom, Bool.and_eq_true, decide_eq_true_eq] at hw'
      have := h j
      simp [Memory.read] at this
      exact absurd this.symm hw'.1.2
  | cons e m ih =>
    obtain ⟨j, b⟩ := e
    have hwc := hw
    simp only [Memory.wfFrom, Bool.and_eq_true, decide_eq_true_eq] at hw
    cases m' with
    | nil =>
      have := h j
      simp [Memory.read] at this
      exact absurd this hw.1.2
    | cons e' t =>
      obtain ⟨k, c⟩ := e'
      simp only [Memory.wfFrom, Bool.and_eq_true, decide_eq_true_eq] at hw'
      have hjk : j = k := by
        rcases Nat.lt_trichotomy j k with hlt | heq | hgt
        · have hj := h j
          simp only [Memory.read, if_pos, if_neg (show k ≠ j by omega)] at hj
          rw [read_below t (k + 1) j (by omega) hw'.2] at hj
          exact absurd hj hw.1.2
        · exact heq
        · have hk := h k
          simp only [Memory.read, if_pos, if_neg (show j ≠ k by omega)] at hk
          rw [read_below m (j + 1) k (by omega) hw.2] at hk
          exact absurd hk.symm hw'.1.2
      subst hjk
      have hb : b = c := by simpa [Memory.read] using h j
      subst hb
      have ht : m = t := by
        refine ih t (j + 1) hw.2 hw'.2 (fun a => ?_)
        by_cases ha : j = a
        · subst ha
          rw [read_below m (j + 1) j (by omega) hw.2, read_below t (j + 1) j (by omega) hw'.2]
        · simpa [Memory.read, ha] using h a
      rw [ht]

end Sys2Proof.Machine
end

