-- ==== Sys2Proof/Laws/State.lean ====
section
/-! SUPPORT. What each update of the state does to each field, so that no later proof unfolds a record update. -/

namespace Sys2Proof.Machine

section Updates
variable (s : State) (x : BReg) (w : WReg) (b : Byte) (v : Word) (f : Flags) (m : Memory) (len : Nat)

@[simp] theorem setB_regs : (s.setB x b).regs = s.regs.set x b := rfl
@[simp] theorem setB_pc : (s.setB x b).pc = s.pc := rfl
@[simp] theorem setB_sp : (s.setB x b).sp = s.sp := rfl
@[simp] theorem setB_fl : (s.setB x b).fl = s.fl := rfl
@[simp] theorem setB_mem : (s.setB x b).mem = s.mem := rfl

@[simp] theorem setW_pc : (s.setW w v).pc = s.pc := rfl
@[simp] theorem setW_sp : (s.setW w v).sp = s.sp := rfl
@[simp] theorem setW_fl : (s.setW w v).fl = s.fl := rfl
@[simp] theorem setW_mem : (s.setW w v).mem = s.mem := rfl

@[simp] theorem setSp_regs : (s.setSp v).regs = s.regs := rfl
@[simp] theorem setSp_pc : (s.setSp v).pc = s.pc := rfl
@[simp] theorem setSp_sp : (s.setSp v).sp = v := rfl
@[simp] theorem setSp_fl : (s.setSp v).fl = s.fl := rfl
@[simp] theorem setSp_mem : (s.setSp v).mem = s.mem := rfl

@[simp] theorem setPc_regs : (s.setPc v).regs = s.regs := rfl
@[simp] theorem setPc_pc : (s.setPc v).pc = v := rfl
@[simp] theorem setPc_sp : (s.setPc v).sp = s.sp := rfl
@[simp] theorem setPc_fl : (s.setPc v).fl = s.fl := rfl
@[simp] theorem setPc_mem : (s.setPc v).mem = s.mem := rfl

@[simp] theorem setFlags_regs : (s.setFlags f).regs = s.regs := rfl
@[simp] theorem setFlags_pc : (s.setFlags f).pc = s.pc := rfl
@[simp] theorem setFlags_sp : (s.setFlags f).sp = s.sp := rfl
@[simp] theorem setFlags_fl : (s.setFlags f).fl = f := rfl
@[simp] theorem setFlags_mem : (s.setFlags f).mem = s.mem := rfl

@[simp] theorem setMem_regs : (s.setMem m).regs = s.regs := rfl
@[simp] theorem setMem_pc : (s.setMem m).pc = s.pc := rfl
@[simp] theorem setMem_sp : (s.setMem m).sp = s.sp := rfl
@[simp] theorem setMem_fl : (s.setMem m).fl = s.fl := rfl
@[simp] theorem setMem_mem : (s.setMem m).mem = m := rfl

@[simp] theorem advance_regs : (s.advance len).regs = s.regs := rfl
@[simp] theorem advance_pc : (s.advance len).pc = s.pc + BitVec.ofNat 16 len := rfl
@[simp] theorem advance_sp : (s.advance len).sp = s.sp := rfl
@[simp] theorem advance_fl : (s.advance len).fl = s.fl := rfl
@[simp] theorem advance_mem : (s.advance len).mem = s.mem := rfl

@[simp] theorem getB_setSp : (s.setSp v).getB x = s.getB x := rfl
@[simp] theorem getB_setPc : (s.setPc v).getB x = s.getB x := rfl
@[simp] theorem getB_setFlags : (s.setFlags f).getB x = s.getB x := rfl
@[simp] theorem getB_setMem : (s.setMem m).getB x = s.getB x := rfl
@[simp] theorem getB_advance : (s.advance len).getB x = s.getB x := rfl
@[simp] theorem getW_setSp : (s.setSp v).getW w = s.getW w := rfl
@[simp] theorem getW_setPc : (s.setPc v).getW w = s.getW w := rfl
@[simp] theorem getW_setFlags : (s.setFlags f).getW w = s.getW w := rfl
@[simp] theorem getW_setMem : (s.setMem m).getW w = s.getW w := rfl
@[simp] theorem getW_advance : (s.advance len).getW w = s.getW w := rfl

@[simp] theorem resetAt_pc : (State.resetAt v).pc = v := rfl
@[simp] theorem resetAt_mem : (State.resetAt v).mem = [] := rfl

@[simp] theorem npc_setB : (s.setB x b).npc len = s.npc len := rfl
@[simp] theorem npc_setFlags : (s.setFlags f).npc len = s.npc len := rfl
@[simp] theorem npc_setMem : (s.setMem m).npc len = s.npc len := rfl
@[simp] theorem npc_setSp : (s.setSp v).npc len = s.npc len := rfl

end Updates

/-! The register file (R21). -/

@[simp] theorem regs_get_set_same (r : Regs) (x : BReg) (b : Byte) : (r.set x b).get x = b := by
  cases x <;> rfl

theorem regs_get_set_other (r : Regs) (x y : BReg) (b : Byte) (h : y ≠ x) : (r.set x b).get y = r.get y := by
  cases x <;> cases y <;> first | rfl | exact absurd rfl h

/-- Two register files with the same eight bytes are the same. -/
theorem regs_ext (r t : Regs) (h : ∀ x, r.get x = t.get x) : r = t := by
  have h0 := h .b0; have h1 := h .b1; have h2 := h .b2; have h3 := h .b3
  have h4 := h .b4; have h5 := h .b5; have h6 := h .b6; have h7 := h .b7
  cases r; cases t; simp_all [Regs.get]

@[simp] theorem getB_setB_same (s : State) (x : BReg) (b : Byte) : (s.setB x b).getB x = b :=
  regs_get_set_same s.regs x b

theorem getB_setB_other (s : State) (x y : BReg) (b : Byte) (h : y ≠ x) : (s.setB x b).getB y = s.getB y :=
  regs_get_set_other s.regs x y b h

/-- The halves of different W registers, and of one, are different B registers. -/
theorem loHalf_ne_hiHalf (v w : WReg) : loHalf v ≠ hiHalf w := by
  cases v <;> cases w <;> decide

theorem loHalf_inj (v w : WReg) (h : loHalf v = loHalf w) : v = w := by
  cases v <;> cases w <;> first | rfl | exact absurd h (by decide)

theorem hiHalf_inj (v w : WReg) (h : hiHalf v = hiHalf w) : v = w := by
  cases v <;> cases w <;> first | rfl | exact absurd h (by decide)

/-- A word is its high byte before its low byte (R21, R51). -/
theorem word_split (v : Word) : v.extractLsb' 8 8 ++ v.extractLsb' 0 8 = v := by
  ext i hi
  simp only [BitVec.getElem_append, BitVec.getElem_extractLsb']
  split <;> rename_i h
  · simp [BitVec.getLsbD_eq_getElem hi]
  · have : 8 + (i - 8) = i := by omega
    simp [this, BitVec.getLsbD_eq_getElem hi]

theorem low_of_append (h l : Byte) : (h ++ l : Word).extractLsb' 0 8 = l := by
  apply BitVec.eq_of_getLsbD_eq
  intro i hi
  erw [BitVec.getLsbD_extractLsb', BitVec.getLsbD_append]
  simp [hi]

theorem high_of_append (h l : Byte) : (h ++ l : Word).extractLsb' 8 8 = h := by
  apply BitVec.eq_of_getLsbD_eq
  intro i hi
  erw [BitVec.getLsbD_extractLsb', BitVec.getLsbD_append]
  simp [hi]

/-- The two halves after a word write (R21). -/
@[simp] theorem getB_lo_setW (s : State) (w : WReg) (v : Word) : (s.setW w v).getB (loHalf w) = v.extractLsb' 0 8 := by
  rw [State.setW, getB_setB_other _ _ _ _ (loHalf_ne_hiHalf w w), getB_setB_same]

@[simp] theorem getB_hi_setW (s : State) (w : WReg) (v : Word) : (s.setW w v).getB (hiHalf w) = v.extractLsb' 8 8 := by
  rw [State.setW, getB_setB_same]

/-- A word write leaves every B register but its two halves (R21). -/
theorem getB_setW_other (s : State) (w : WReg) (v : Word) (y : BReg) (h1 : y ≠ loHalf w) (h2 : y ≠ hiHalf w) :
    (s.setW w v).getB y = s.getB y := by
  rw [State.setW, getB_setB_other _ _ _ _ h2, getB_setB_other _ _ _ _ h1]

@[simp] theorem getW_setW_same (s : State) (w : WReg) (v : Word) : (s.setW w v).getW w = v := by
  rw [State.getW, getB_lo_setW, getB_hi_setW, word_split]

theorem getW_setW_other (s : State) (w u : WReg) (v : Word) (h : u ≠ w) : (s.setW w v).getW u = s.getW u := by
  rw [State.getW, State.getW,
    getB_setW_other _ _ _ _ (fun e => loHalf_ne_hiHalf w u e.symm) (fun e => h (hiHalf_inj u w e)),
    getB_setW_other _ _ _ _ (fun e => h (loHalf_inj u w e)) (loHalf_ne_hiHalf u w)]

/-- A byte write leaves every W register that does not hold the byte (R21). -/
theorem getW_setB_other (s : State) (x : BReg) (b : Byte) (u : WReg) (h1 : loHalf u ≠ x) (h2 : hiHalf u ≠ x) :
    (s.setB x b).getW u = s.getW u := by
  rw [State.getW, State.getW, getB_setB_other _ _ _ _ h1, getB_setB_other _ _ _ _ h2]

/-! The flag image (R30). -/

/-- Popping a pushed flag image gives the flags back (R30). -/
@[simp] theorem ofImage_image (f : Flags) : Flags.ofImage f.image = f := by
  obtain ⟨i, n, v, z, c⟩ := f
  cases i <;> cases n <;> cases v <;> cases z <;> cases c <;> rfl

/-- SetFL ignores bits 15:5 (R30). -/
theorem ofImage_low_bits (w : Word) : Flags.ofImage (w &&& 0x001F) = Flags.ofImage w := by
  simp [Flags.ofImage]

end Sys2Proof.Machine
end

