-- ==== Sys2Proof/Laws/Ops.lean ====
section
/-! SUPPORT. One lemma for each shared operation of Machine/Ops.lean and Machine/Operands.lean, field by field: what it
writes and what it leaves. -/

namespace Sys2Proof.Machine

section Stack
variable (s : State) (v : Word) (x : BReg) (w : WReg)

@[simp] theorem push16_regs : (s.push16 v).regs = s.regs := rfl
@[simp] theorem push16_pc : (s.push16 v).pc = s.pc := rfl
@[simp] theorem push16_sp : (s.push16 v).sp = s.sp - 2 := rfl
@[simp] theorem push16_fl : (s.push16 v).fl = s.fl := rfl
@[simp] theorem push16_mem : (s.push16 v).mem = s.mem.writeWord (s.sp - 2) v := rfl
@[simp] theorem getB_push16 : (s.push16 v).getB x = s.getB x := rfl
@[simp] theorem getW_push16 : (s.push16 v).getW w = s.getW w := rfl

@[simp] theorem drop16_regs : s.drop16.regs = s.regs := rfl
@[simp] theorem drop16_pc : s.drop16.pc = s.pc := rfl
@[simp] theorem drop16_sp : s.drop16.sp = s.sp + 2 := rfl
@[simp] theorem drop16_fl : s.drop16.fl = s.fl := rfl
@[simp] theorem drop16_mem : s.drop16.mem = s.mem := rfl

/-- The word on top after a push is the word pushed (R28). -/
@[simp] theorem top16_push16 : (s.push16 v).top16 = v := by
  simp [State.top16]

end Stack

/-- The word of two bytes in memory order (R51). -/
@[simp] theorem leWord_pair (lo hi : Byte) : leWord [lo, hi] = hi ++ lo := by
  simp only [leWord, List.foldr_cons, List.foldr_nil]
  congr 1
  exact low_of_append 0 hi

/-- Through a table, vector `n` goes to the word in it (R247). -/
@[simp] theorem handlerAddr_tableTarget (base : Word) (n : Nat) (m : Memory) :
    handlerAddr (tableTarget base) n m = m.readWord (vectorAddr base n) :=
  leWord_pair _ _

/-- The handler's address depends on no byte but those at the addresses `IntTarget` reads. -/
theorem handlerAddr_congr (t : IntTarget) (n : Nat) (m m' : Memory)
    (h : ∀ a ∈ t.reads n, m'.readByte a = m.readByte a) : handlerAddr t n m' = handlerAddr t n m := by
  simp only [handlerAddr, List.map_congr_left h]

/-- Entry through a vector, field by field (R302). -/
theorem enterVector_fields (s : State) (t : IntTarget) (ret : Word) (n : Nat) :
    (s.enterVector t ret n).regs = s.regs ∧ (s.enterVector t ret n).fl = s.fl ∧
      (s.enterVector t ret n).sp = s.sp - 2 - 2 ∧
      (s.enterVector t ret n).mem = (s.mem.writeWord (s.sp - 2) ret).writeWord (s.sp - 2 - 2) s.fl.image ∧
      (s.enterVector t ret n).pc = handlerAddr t n (s.enterVector t ret n).mem :=
  ⟨rfl, rfl, rfl, rfl, rfl⟩

/-- The return from a vector, field by field (R306). -/
theorem returnFromVector_fields (s : State) :
    s.returnFromVector.regs = s.regs ∧ s.returnFromVector.mem = s.mem ∧ s.returnFromVector.sp = s.sp + 2 + 2 ∧
      s.returnFromVector.fl = Flags.ofImage (s.mem.readWord s.sp) ∧
      s.returnFromVector.pc = s.mem.readWord (s.sp + 2) :=
  ⟨rfl, rfl, rfl, rfl, rfl⟩

/-- A call, field by field (R240 (6)). -/
theorem callTo_fields (s : State) (len : Nat) (target : Word) :
    (s.callTo len target).regs = s.regs ∧ (s.callTo len target).fl = s.fl ∧ (s.callTo len target).sp = s.sp - 2 ∧
      (s.callTo len target).mem = s.mem.writeWord (s.sp - 2) (s.npc len) ∧ (s.callTo len target).pc = target :=
  ⟨rfl, rfl, rfl, rfl, rfl⟩

/-- A conditional jump, whole (R240 (7)). -/
theorem jumpIf_cases (s : State) (k : Cond) (d : Byte) :
    (k.holds s.fl = true ∧ s.jumpIf k d = s.setPc (s.relTarget d)) ∨
      (k.holds s.fl = false ∧ s.jumpIf k d = s.setPc (s.npc 2)) := by
  unfold State.jumpIf
  cases h : k.holds s.fl
  · exact .inr ⟨rfl, rfl⟩
  · exact .inl ⟨rfl, rfl⟩

/-- A byte load, field by field (R120). -/
theorem loadByte_fields (s : State) (len : Nat) (x : BReg) (m : MemOperand) :
    (s.loadByte len x m).getB x = s.mem.readByte (s.ea m) ∧
      (∀ y, y ≠ x → (s.loadByte len x m).getB y = s.getB y) ∧ (s.loadByte len x m).sp = s.sp ∧
      (s.loadByte len x m).fl = s.fl ∧ (s.loadByte len x m).mem = s.mem ∧ (s.loadByte len x m).pc = s.npc len :=
  ⟨getB_setB_same s x _, fun y h => getB_setB_other s x y _ h, rfl, rfl, rfl, rfl⟩

/-- A word load, field by field (R120). -/
theorem loadWord_fields (s : State) (len : Nat) (x : WReg) (m : MemOperand) :
    (s.loadWord len x m).getW x = s.mem.readWord (s.ea m) ∧
      (∀ y, y ≠ x → (s.loadWord len x m).getW y = s.getW y) ∧ (s.loadWord len x m).sp = s.sp ∧
      (s.loadWord len x m).fl = s.fl ∧ (s.loadWord len x m).mem = s.mem ∧ (s.loadWord len x m).pc = s.npc len :=
  ⟨getW_setW_same s x _, fun y h => getW_setW_other s x y _ h, rfl, rfl, rfl, rfl⟩

/-- A byte store, field by field (R120). -/
theorem storeByte_fields (s : State) (len : Nat) (x : BReg) (m : MemOperand) :
    (s.storeByte len x m).regs = s.regs ∧ (s.storeByte len x m).sp = s.sp ∧ (s.storeByte len x m).fl = s.fl ∧
      (s.storeByte len x m).mem = s.mem.writeByte (s.ea m) (s.getB x) ∧ (s.storeByte len x m).pc = s.npc len :=
  ⟨rfl, rfl, rfl, rfl, rfl⟩

/-- A word store, field by field (R120). -/
theorem storeWord_fields (s : State) (len : Nat) (x : WReg) (m : MemOperand) :
    (s.storeWord len x m).regs = s.regs ∧ (s.storeWord len x m).sp = s.sp ∧ (s.storeWord len x m).fl = s.fl ∧
      (s.storeWord len x m).mem = s.mem.writeWord (s.ea m) (s.getW x) ∧ (s.storeWord len x m).pc = s.npc len :=
  ⟨rfl, rfl, rfl, rfl, rfl⟩

section Shapes
variable (s : State)

/-- The byte logic, adder and shift shapes, field by field (R160). -/
theorem logicB_fields (x : BReg) (r : Byte) :
    (s.logicB x r).getB x = r ∧ (∀ y, y ≠ x → (s.logicB x r).getB y = s.getB y) ∧ (s.logicB x r).sp = s.sp ∧
      (s.logicB x r).mem = s.mem ∧ (s.logicB x r).fl = s.fl.setNZ r ∧ (s.logicB x r).pc = s.npc 2 :=
  ⟨getB_setB_same s x _, fun y h => getB_setB_other s x y _ h, rfl, rfl, rfl, rfl⟩

theorem arithB_fields (x : BReg) (a : AddRec 8) :
    (s.arithB x a).getB x = a.r ∧ (∀ y, y ≠ x → (s.arithB x a).getB y = s.getB y) ∧ (s.arithB x a).sp = s.sp ∧
      (s.arithB x a).mem = s.mem ∧ (s.arithB x a).fl = s.fl.setNVZC a ∧ (s.arithB x a).pc = s.npc 2 :=
  ⟨getB_setB_same s x _, fun y h => getB_setB_other s x y _ h, rfl, rfl, rfl, rfl⟩

theorem shiftB_fields (x : BReg) (rc : Byte × Bool) :
    (s.shiftB x rc).getB x = rc.1 ∧ (∀ y, y ≠ x → (s.shiftB x rc).getB y = s.getB y) ∧ (s.shiftB x rc).sp = s.sp ∧
      (s.shiftB x rc).mem = s.mem ∧ (s.shiftB x rc).fl = s.fl.setShift rc.1 rc.2 ∧ (s.shiftB x rc).pc = s.npc 2 :=
  ⟨getB_setB_same s x _, fun y h => getB_setB_other s x y _ h, rfl, rfl, rfl, rfl⟩

/-- The word logic, adder and shift shapes, field by field (R200). -/
theorem logicW_fields (x : WReg) (r : Word) :
    (s.logicW x r).getW x = r ∧ (∀ y, y ≠ x → (s.logicW x r).getW y = s.getW y) ∧ (s.logicW x r).sp = s.sp ∧
      (s.logicW x r).mem = s.mem ∧ (s.logicW x r).fl = s.fl.setNZ r ∧ (s.logicW x r).pc = s.npc 2 :=
  ⟨getW_setW_same s x _, fun y h => getW_setW_other s x y _ h, rfl, rfl, rfl, rfl⟩

theorem arithW_fields (x : WReg) (a : AddRec 16) :
    (s.arithW x a).getW x = a.r ∧ (∀ y, y ≠ x → (s.arithW x a).getW y = s.getW y) ∧ (s.arithW x a).sp = s.sp ∧
      (s.arithW x a).mem = s.mem ∧ (s.arithW x a).fl = s.fl.setNVZC a ∧ (s.arithW x a).pc = s.npc 2 :=
  ⟨getW_setW_same s x _, fun y h => getW_setW_other s x y _ h, rfl, rfl, rfl, rfl⟩

theorem shiftW_fields (x : WReg) (rc : Word × Bool) :
    (s.shiftW x rc).getW x = rc.1 ∧ (∀ y, y ≠ x → (s.shiftW x rc).getW y = s.getW y) ∧ (s.shiftW x rc).sp = s.sp ∧
      (s.shiftW x rc).mem = s.mem ∧ (s.shiftW x rc).fl = s.fl.setShift rc.1 rc.2 ∧ (s.shiftW x rc).pc = s.npc 2 :=
  ⟨getW_setW_same s x _, fun y h => getW_setW_other s x y _ h, rfl, rfl, rfl, rfl⟩

/-- A one-byte flag instruction, field by field (R280). -/
theorem flagsTo_fields (f : Flags) :
    (s.flagsTo f).regs = s.regs ∧ (s.flagsTo f).sp = s.sp ∧ (s.flagsTo f).mem = s.mem ∧ (s.flagsTo f).fl = f ∧
      (s.flagsTo f).pc = s.npc 1 :=
  ⟨rfl, rfl, rfl, rfl, rfl⟩

end Shapes

end Sys2Proof.Machine
end

