-- ==== Sys2Proof/Laws/PerInstr.lean ====
section
/-! SUPPORT. Statements for all instructions, one lemma per constructor of `Instr`: the number of bytes an instruction
is encoded in is the one of spec 30_encoding.md R95, under every opcode map. -/

namespace Sys2Proof.Laws.EncodedLength

/-- The encoding of an instruction has the length R95 gives it, under every opcode map. -/
def Statement (i : Instr) : Prop := ∀ opc : Op → Byte, (encodeWith opc i).length = i.length

theorem ldbM0 (x : BReg) (imm : Word) : Statement (.ldbM0 x imm) := fun _ => rfl
theorem ldwM0 (x : WReg) (imm : Word) : Statement (.ldwM0 x imm) := fun _ => rfl
theorem srbM0 (x : BReg) (imm : Word) : Statement (.srbM0 x imm) := fun _ => rfl
theorem srwM0 (x : WReg) (imm : Word) : Statement (.srwM0 x imm) := fun _ => rfl
theorem ldbM1 (x : BReg) (y : WReg) : Statement (.ldbM1 x y) := fun _ => rfl
theorem ldwM1 (x y : WReg) : Statement (.ldwM1 x y) := fun _ => rfl
theorem srbM1 (x : BReg) (y : WReg) : Statement (.srbM1 x y) := fun _ => rfl
theorem srwM1 (x y : WReg) : Statement (.srwM1 x y) := fun _ => rfl
theorem ldbM2 (x : BReg) (y : WReg) (imm : Word) : Statement (.ldbM2 x y imm) := fun _ => rfl
theorem ldwM2 (x y : WReg) (imm : Word) : Statement (.ldwM2 x y imm) := fun _ => rfl
theorem srbM2 (x : BReg) (y : WReg) (imm : Word) : Statement (.srbM2 x y imm) := fun _ => rfl
theorem srwM2 (x y : WReg) (imm : Word) : Statement (.srwM2 x y imm) := fun _ => rfl
theorem ldbM3 (x : BReg) (y : WReg) : Statement (.ldbM3 x y) := fun _ => rfl
theorem ldwM3 (x y : WReg) : Statement (.ldwM3 x y) := fun _ => rfl
theorem srbM3 (x : BReg) (y : WReg) : Statement (.srbM3 x y) := fun _ => rfl
theorem srwM3 (x y : WReg) : Statement (.srwM3 x y) := fun _ => rfl
theorem ldbM4 (x : BReg) (y z : WReg) : Statement (.ldbM4 x y z) := fun _ => rfl
theorem ldwM4 (x y z : WReg) : Statement (.ldwM4 x y z) := fun _ => rfl
theorem srbM4 (x : BReg) (y z : WReg) : Statement (.srbM4 x y z) := fun _ => rfl
theorem srwM4 (x y z : WReg) : Statement (.srwM4 x y z) := fun _ => rfl
theorem pushf : Statement (.pushf) := fun _ => rfl
theorem push (x : WReg) : Statement (.push x) := fun _ => rfl
theorem popf : Statement (.popf) := fun _ => rfl
theorem pop (x : WReg) : Statement (.pop x) := fun _ => rfl
theorem movb (x y : BReg) : Statement (.movb x y) := fun _ => rfl
theorem movbi (x : BReg) (imm : Byte) : Statement (.movbi x imm) := fun _ => rfl
theorem notb (x : BReg) : Statement (.notb x) := fun _ => rfl
theorem andb (x y : BReg) : Statement (.andb x y) := fun _ => rfl
theorem orb (x y : BReg) : Statement (.orb x y) := fun _ => rfl
theorem eorb (x y : BReg) : Statement (.eorb x y) := fun _ => rfl
theorem negb (x : BReg) : Statement (.negb x) := fun _ => rfl
theorem incb (x : BReg) : Statement (.incb x) := fun _ => rfl
theorem decb (x : BReg) : Statement (.decb x) := fun _ => rfl
theorem addb (x y : BReg) : Statement (.addb x y) := fun _ => rfl
theorem subb (x y : BReg) : Statement (.subb x y) := fun _ => rfl
theorem adcb (x y : BReg) : Statement (.adcb x y) := fun _ => rfl
theorem sbbb (x y : BReg) : Statement (.sbbb x y) := fun _ => rfl
theorem shlb1 (x : BReg) : Statement (.shlb1 x) := fun _ => rfl
theorem shlb (x y : BReg) : Statement (.shlb x y) := fun _ => rfl
theorem shrb1 (x : BReg) : Statement (.shrb1 x) := fun _ => rfl
theorem shrb (x y : BReg) : Statement (.shrb x y) := fun _ => rfl
theorem sarb1 (x : BReg) : Statement (.sarb1 x) := fun _ => rfl
theorem sarb (x y : BReg) : Statement (.sarb x y) := fun _ => rfl
theorem rorb (x : BReg) : Statement (.rorb x) := fun _ => rfl
theorem rolb (x : BReg) : Statement (.rolb x) := fun _ => rfl
theorem swpb (x y : BReg) : Statement (.swpb x y) := fun _ => rfl
theorem movw (x y : WReg) : Statement (.movw x y) := fun _ => rfl
theorem movwi (x : WReg) (imm : Word) : Statement (.movwi x imm) := fun _ => rfl
theorem movsw (x : WReg) : Statement (.movsw x) := fun _ => rfl
theorem movws (x : WReg) : Statement (.movws x) := fun _ => rfl
theorem notw (x : WReg) : Statement (.notw x) := fun _ => rfl
theorem andw (x y : WReg) : Statement (.andw x y) := fun _ => rfl
theorem orw (x y : WReg) : Statement (.orw x y) := fun _ => rfl
theorem eorw (x y : WReg) : Statement (.eorw x y) := fun _ => rfl
theorem negw (x : WReg) : Statement (.negw x) := fun _ => rfl
theorem incw (x : WReg) : Statement (.incw x) := fun _ => rfl
theorem decw (x : WReg) : Statement (.decw x) := fun _ => rfl
theorem addw (x y : WReg) : Statement (.addw x y) := fun _ => rfl
theorem subw (x y : WReg) : Statement (.subw x y) := fun _ => rfl
theorem adcw (x y : WReg) : Statement (.adcw x y) := fun _ => rfl
theorem sbbw (x y : WReg) : Statement (.sbbw x y) := fun _ => rfl
theorem shlw1 (x : WReg) : Statement (.shlw1 x) := fun _ => rfl
theorem shlwb (x : WReg) (y : BReg) : Statement (.shlwb x y) := fun _ => rfl
theorem shrw1 (x : WReg) : Statement (.shrw1 x) := fun _ => rfl
theorem shrwb (x : WReg) (y : BReg) : Statement (.shrwb x y) := fun _ => rfl
theorem sarw1 (x : WReg) : Statement (.sarw1 x) := fun _ => rfl
theorem sarwb (x : WReg) (y : BReg) : Statement (.sarwb x y) := fun _ => rfl
theorem rorw (x : WReg) : Statement (.rorw x) := fun _ => rfl
theorem rolw (x : WReg) : Statement (.rolw x) := fun _ => rfl
theorem swpw (x y : WReg) : Statement (.swpw x y) := fun _ => rfl
theorem jR (d : Byte) : Statement (.jR d) := fun _ => rfl
theorem jA (imm : Word) : Statement (.jA imm) := fun _ => rfl
theorem jX (x : WReg) : Statement (.jX x) := fun _ => rfl
theorem cR (d : Byte) : Statement (.cR d) := fun _ => rfl
theorem cA (imm : Word) : Statement (.cA imm) := fun _ => rfl
theorem cX (x : WReg) : Statement (.cX x) := fun _ => rfl
theorem int (n : Nat) : Statement (.int n) := fun _ => rfl
theorem jz (d : Byte) : Statement (.jz d) := fun _ => rfl
theorem jnz (d : Byte) : Statement (.jnz d) := fun _ => rfl
theorem jc (d : Byte) : Statement (.jc d) := fun _ => rfl
theorem jnc (d : Byte) : Statement (.jnc d) := fun _ => rfl
theorem jn (d : Byte) : Statement (.jn d) := fun _ => rfl
theorem jnn (d : Byte) : Statement (.jnn d) := fun _ => rfl
theorem jv (d : Byte) : Statement (.jv d) := fun _ => rfl
theorem jnv (d : Byte) : Statement (.jnv d) := fun _ => rfl
theorem ja (d : Byte) : Statement (.ja d) := fun _ => rfl
theorem jbe (d : Byte) : Statement (.jbe d) := fun _ => rfl
theorem jge (d : Byte) : Statement (.jge d) := fun _ => rfl
theorem jl (d : Byte) : Statement (.jl d) := fun _ => rfl
theorem jg (d : Byte) : Statement (.jg d) := fun _ => rfl
theorem jle (d : Byte) : Statement (.jle d) := fun _ => rfl
theorem ret : Statement (.ret) := fun _ => rfl
theorem iret : Statement (.iret) := fun _ => rfl
theorem nop : Statement (.nop) := fun _ => rfl
theorem sti : Statement (.sti) := fun _ => rfl
theorem stc : Statement (.stc) := fun _ => rfl
theorem stz : Statement (.stz) := fun _ => rfl
theorem stv : Statement (.stv) := fun _ => rfl
theorem stn : Statement (.stn) := fun _ => rfl
theorem cli : Statement (.cli) := fun _ => rfl
theorem clc : Statement (.clc) := fun _ => rfl
theorem clz : Statement (.clz) := fun _ => rfl
theorem clv : Statement (.clv) := fun _ => rfl
theorem cln : Statement (.cln) := fun _ => rfl
theorem lea (x : WReg) (imm : Word) : Statement (.lea x imm) := fun _ => rfl

end Sys2Proof.Laws.EncodedLength
end

