-- ==== Sys2Proof/Laws/Platform.lean ====
section
/-! SUPPORT. What the guard of the memory map, and a step on a platform, can answer. -/

namespace Sys2Proof.Machine

/-- The guard refuses at an address that is not plain memory, or lets the answer through where there is none (R56). -/
theorem guardAccess_cases (p : Platform) (addrs : List Word) (o : Outcome) :
    (∃ a ∈ addrs, isPlain p a = false ∧ guardAccess p addrs o = .refused (.outsideMemMap a)) ∨
      ((∀ a ∈ addrs, isPlain p a = true) ∧ guardAccess p addrs o = o) := by
  unfold guardAccess
  cases h : addrs.find? (fun a => !isPlain p a) with
  | some a => exact .inl ⟨a, List.mem_of_find?_eq_some h, by simpa using List.find?_some h, rfl⟩
  | none => exact .inr ⟨fun a ha => by simpa using List.find?_eq_none.mp h a ha, rfl⟩

/-- On a platform without holes every address is plain memory (R55). -/
theorem isPlain_of_no_holes (p : Platform) (a : Word) (h : p.holes = []) : isPlain p a = true := by
  simp [isPlain, h]

/-- On a platform without holes the guard lets every answer through (R55). -/
theorem guardAccess_of_no_holes (p : Platform) (addrs : List Word) (o : Outcome) (h : p.holes = []) :
    guardAccess p addrs o = o := by
  rcases guardAccess_cases p addrs o with ⟨a, _, hp, _⟩ | ⟨_, ho⟩
  · rw [isPlain_of_no_holes p a h] at hp
    exact absurd hp (by decide)
  · exact ho

/-- A guarded next state is the next state that was guarded (R56). -/
theorem guardAccess_next (p : Platform) (addrs : List Word) (o : Outcome) (t : State)
    (h : guardAccess p addrs o = .next t) : o = .next t := by
  rcases guardAccess_cases p addrs o with ⟨a, _, _, hr⟩ | ⟨_, ho⟩
  · rw [hr] at h
    cases h
  · rw [← ho, h]

/-- The whole of what can give a next state on a platform: a taken request, or the fetched instruction (R304, R305). -/
theorem platformStep_next (p : Platform) (req : Option (BitVec 4)) (s t : State)
    (h : platformStep p req s = .next t) :
    (∃ v : BitVec 4, req = some v ∧ s.fl.i = true ∧ t = s.enterVector p.intTarget s.pc (v.toNat + 1)) ∨
      ((req = none ∨ s.fl.i = false) ∧
        ∃ (i : Instr) (rest : List Byte), s.fetchWith p.opc = .ok i rest ∧ execOn p i s = .next t) := by
  unfold platformStep at h
  cases hv : takenVector req s with
  | some n =>
    simp only [hv] at h
    have h := guardAccess_next _ _ _ _ h
    cases req with
    | none => cases hv
    | some v =>
      cases hi : s.fl.i
      · simp [takenVector, hi] at hv
      · simp only [takenVector, hi, if_true, Option.some.injEq] at hv
        subst hv
        exact .inl ⟨v, rfl, rfl, (Host.Outcome.next.inj h).symm⟩
  | none =>
    simp only [hv] at h
    have hr : req = none ∨ s.fl.i = false := by
      cases req with
      | none => exact .inl rfl
      | some v =>
        cases hi : s.fl.i
        · exact .inr rfl
        · simp [takenVector, hi] at hv
    cases hf : s.fetchWith p.opc with
    | ok i rest =>
      simp only [hf] at h
      exact .inr ⟨hr, i, rest, rfl, guardAccess_next _ _ _ _ h⟩
    | reject r =>
      simp only [hf] at h
      have h := guardAccess_next _ _ _ _ h
      cases h

end Sys2Proof.Machine
end

