-- ==== Sys2Proof/Tests/Slice0.lean ====
section
/-! SUPPORT. The model's own tests: a decoded word for every constructor, written out from the encoding tables of spec
30_encoding.md; one or two steps for every instruction, from spec 95_test_vectors.md, whose ids the comments give; the
ill-formed terms and the illegal encodings; and, for every statement that has hypotheses, states and operands that meet
them. -/

namespace Sys2Proof.Machine

-- One theorem at a time: their kernel evaluations, all at once, would exhaust the threads.
set_option Elab.async false

/-! ## Helpers -/

/-- One byte of memory set. -/
def State.poke (s : State) (a : Word) (v : Byte) : State := s.setMem (s.mem.writeByte a v)

/-- The flags set, in the order I N V Z C of the test vectors. -/
def State.withFlags (s : State) (w : BitVec 5) : State :=
  s.setFlags { i := w.getLsbD 4, n := w.getLsbD 3, v := w.getLsbD 2, z := w.getLsbD 1, c := w.getLsbD 0 }

/-- The base state of the test vectors. -/
def baseT : State :=
  (((((((({ State.reset with pc := 0x0100, sp := 0x8000 : State }.setW .w0 0x1234).setW .w1 0x2000).setW .w2
    0x0010).setW .w3 0xABCD).load 0x2000 [0x5A, 0xA5]).load 0x2010 [0x77, 0x88]).load 0x4000 [0x11, 0x22]).load 0x8010
    [0xEE, 0xFF])

/-- The base state of the byte vectors A. -/
def baseA : State := ((baseT.setW .w1 0x0FF0).setW .w2 0x7F80).setW .w3 0xFF00

/-- The base state of the word vectors B. -/
def baseB : State := ((baseT.setW .w1 0xF00F).setW .w2 0x8000).setW .w3 0x7FFF

/-- With the bytes `bs` at PC, one step changes the state as `f` says, leaves the flags `fl`, and changes nothing
else. -/
def runs (s : State) (bs : List Byte) (fl : BitVec 5) (f : State → State) : Bool :=
  match step (s.load s.pc bs) with
  | .next t => decide (t = (f (s.load s.pc bs)).withFlags fl)
  | .fault _ => false
  | .refused _ => false

/-- With the bytes `bs` at PC, the step stops with IllegalInstruction at PC, after reading `bad`. -/
def stops (s : State) (bs bad : List Byte) : Bool :=
  match step (s.load s.pc bs) with
  | .next _ => false
  | .fault f => decide (f = .illegalInstruction s.pc bad)
  | .refused _ => false

/-! ## Decoding (R82 to R85, R90): the bytes of every constructor, both ways -/

theorem test_decode_transfers : ∀ p ∈ ([
    ([0x00, 0b00000101, 0x34, 0x81], .ldbM0 .b5 0x8134),
    ([0x08, 0b00000001, 0x34, 0x81], .ldwM0 .w1 0x8134),
    ([0x10, 0b00000101, 0x34, 0x81], .srbM0 .b5 0x8134),
    ([0x18, 0b00000001, 0x34, 0x81], .srwM0 .w1 0x8134),
    ([0x01, 0b00100101], .ldbM1 .b5 .w2),
    ([0x09, 0b00100001], .ldwM1 .w1 .w2),
    ([0x11, 0b00100101], .srbM1 .b5 .w2),
    ([0x19, 0b00100001], .srwM1 .w1 .w2),
    ([0x02, 0b00100101, 0x34, 0x81], .ldbM2 .b5 .w2 0x8134),
    ([0x0A, 0b00100001, 0x34, 0x81], .ldwM2 .w1 .w2 0x8134),
    ([0x12, 0b00100101, 0x34, 0x81], .srbM2 .b5 .w2 0x8134),
    ([0x1A, 0b00100001, 0x34, 0x81], .srwM2 .w1 .w2 0x8134),
    ([0x03, 0b00100101], .ldbM3 .b5 .w2),
    ([0x0B, 0b00100001], .ldwM3 .w1 .w2),
    ([0x13, 0b00100101], .srbM3 .b5 .w2),
    ([0x1B, 0b00100001], .srwM3 .w1 .w2),
    ([0x04, 0b10110101], .ldbM4 .b5 .w2 .w3),
    ([0x0C, 0b10110001], .ldwM4 .w1 .w2 .w3),
    ([0x14, 0b10110101], .srbM4 .b5 .w2 .w3),
    ([0x1C, 0b10110001], .srwM4 .w1 .w2 .w3),
    ([0x20], .pushf),
    ([0x21, 0b00000001], .push .w1),
    ([0x22], .popf),
    ([0x23, 0b00000001], .pop .w1)] : List (List Byte × Instr)),
    decode p.1 = .ok p.2 [] ∧ encode p.2 = p.1 := by decide +kernel

theorem test_decode_byte_forms : ∀ p ∈ ([
    ([0x30, 0b01100101], .movb .b5 .b6),
    ([0x31, 0b00000101, 0x9C], .movbi .b5 0x9C),
    ([0x32, 0b00000101], .notb .b5),
    ([0x33, 0b01100101], .andb .b5 .b6),
    ([0x34, 0b01100101], .orb .b5 .b6),
    ([0x35, 0b01100101], .eorb .b5 .b6),
    ([0x36, 0b00000101], .negb .b5),
    ([0x37, 0b00000101], .incb .b5),
    ([0x38, 0b00000101], .decb .b5),
    ([0x39, 0b01100101], .addb .b5 .b6),
    ([0x3A, 0b01100101], .subb .b5 .b6),
    ([0x3B, 0b01100101], .adcb .b5 .b6),
    ([0x3C, 0b01100101], .sbbb .b5 .b6),
    ([0x3D, 0b00000101], .shlb1 .b5),
    ([0x3E, 0b01100101], .shlb .b5 .b6),
    ([0x3F, 0b00000101], .shrb1 .b5),
    ([0x40, 0b01100101], .shrb .b5 .b6),
    ([0x41, 0b00000101], .sarb1 .b5),
    ([0x42, 0b01100101], .sarb .b5 .b6),
    ([0x43, 0b00000101], .rorb .b5),
    ([0x44, 0b00000101], .rolb .b5),
    ([0x45, 0b01100101], .swpb .b5 .b6)] : List (List Byte × Instr)),
    decode p.1 = .ok p.2 [] ∧ encode p.2 = p.1 := by decide +kernel

theorem test_decode_word_forms : ∀ p ∈ ([
    ([0x50, 0b00100001], .movw .w1 .w2),
    ([0x51, 0b00000001, 0x34, 0x81], .movwi .w1 0x8134),
    ([0x52, 0b00000001], .movsw .w1),
    ([0x53, 0b00000001], .movws .w1),
    ([0x54, 0b00000001], .notw .w1),
    ([0x55, 0b00100001], .andw .w1 .w2),
    ([0x56, 0b00100001], .orw .w1 .w2),
    ([0x57, 0b00100001], .eorw .w1 .w2),
    ([0x58, 0b00000001], .negw .w1),
    ([0x59, 0b00000001], .incw .w1),
    ([0x5A, 0b00000001], .decw .w1),
    ([0x5B, 0b00100001], .addw .w1 .w2),
    ([0x5C, 0b00100001], .subw .w1 .w2),
    ([0x5D, 0b00100001], .adcw .w1 .w2),
    ([0x5E, 0b00100001], .sbbw .w1 .w2),
    ([0x5F, 0b00000001], .shlw1 .w1),
    ([0x60, 0b01100001], .shlwb .w1 .b6),
    ([0x61, 0b00000001], .shrw1 .w1),
    ([0x62, 0b01100001], .shrwb .w1 .b6),
    ([0x63, 0b00000001], .sarw1 .w1),
    ([0x64, 0b01100001], .sarwb .w1 .b6),
    ([0x65, 0b00000001], .rorw .w1),
    ([0x66, 0b00000001], .rolw .w1),
    ([0x67, 0b00100001], .swpw .w1 .w2)] : List (List Byte × Instr)),
    decode p.1 = .ok p.2 [] ∧ encode p.2 = p.1 := by decide +kernel

theorem test_decode_branches : ∀ p ∈ ([
    ([0x70, 0x9C], .jR 0x9C),
    ([0x71, 0x34, 0x81], .jA 0x8134),
    ([0x72, 0b00000001], .jX .w1),
    ([0x73, 0x9C], .cR 0x9C),
    ([0x74, 0x34, 0x81], .cA 0x8134),
    ([0x75, 0b00000001], .cX .w1),
    ([0x87], .int 8),
    ([0x90, 0x9C], .jz 0x9C),
    ([0x91, 0x9C], .jnz 0x9C),
    ([0x92, 0x9C], .jc 0x9C),
    ([0x93, 0x9C], .jnc 0x9C),
    ([0x94, 0x9C], .jn 0x9C),
    ([0x95, 0x9C], .jnn 0x9C),
    ([0x96, 0x9C], .jv 0x9C),
    ([0x97, 0x9C], .jnv 0x9C),
    ([0x98, 0x9C], .ja 0x9C),
    ([0x99, 0x9C], .jbe 0x9C),
    ([0x9A, 0x9C], .jge 0x9C),
    ([0x9B, 0x9C], .jl 0x9C),
    ([0x9C, 0x9C], .jg 0x9C),
    ([0x9D, 0x9C], .jle 0x9C),
    ([0xA0], .ret),
    ([0xA1], .iret)] : List (List Byte × Instr)),
    decode p.1 = .ok p.2 [] ∧ encode p.2 = p.1 := by decide +kernel

theorem test_decode_misc : ∀ p ∈ ([
    ([0xB0], .nop),
    ([0xB1], .sti),
    ([0xB2], .stc),
    ([0xB3], .stz),
    ([0xB4], .stv),
    ([0xB5], .stn),
    ([0xB6], .cli),
    ([0xB7], .clc),
    ([0xB8], .clz),
    ([0xB9], .clv),
    ([0xBA], .cln),
    ([0xBB, 0b00000001, 0x34, 0x81], .lea .w1 0x8134)] : List (List Byte × Instr)),
    decode p.1 = .ok p.2 [] ∧ encode p.2 = p.1 := by decide +kernel

/-- R81, R84: the sixteen INT opcodes carry the vector number minus one. -/
theorem test_decode_int_ends : decode [0x80] = .ok (.int 1) [] ∧ decode [0x8F] = .ok (.int 16) [] := by decide +kernel

/-- R80: bytes after the instruction are left over; bytes that end too soon are no instruction. -/
theorem test_decode_rest :
    decode [0x71, 0x00, 0x30, 0xAA, 0xBB] = .ok (.jA 0x3000) [0xAA, 0xBB] ∧
    (match decode [0x71, 0x00] with | .ok _ _ => false | .reject _ => true) = true := by decide +kernel

/-- The table words of the host: the operand bytes above nbits are zero (LEA W2, LDB.m4 B0 [W1 + W2]). -/
theorem test_table_words :
    decodeTableWord 16 0x02BB = some (.lea .w2 0) ∧ decodeTableWord 32 0x800002BB = some (.lea .w2 0x8000) ∧
    decodeTableWord 16 0x6004 = some (.ldbM4 .b0 .w1 .w2) ∧ decodeTableWord 16 0x0832 = none := by decide +kernel

/-- The word placed for the fetch is the one the next step runs. -/
theorem test_fetch_word : step (State.reset.withFetchWord 32 0xBEEF0151) =
    exec (.movwi .w1 0xBEEF) (State.reset.withFetchWord 32 0xBEEF0151) := by
  have h : (State.reset.withFetchWord 32 0xBEEF0151).fetch = .ok (.movwi .w1 0xBEEF) [] := by decide +kernel
  simp only [step, h]

/-- Vectors E1 to E8: opcode bytes that no opcode uses. -/
theorem test_illegal_opcodes :
    ([0x05, 0x0F, 0x24, 0x46, 0x9E, 0xA2, 0xBC, 0xFF] : List Byte).all (fun b => stops baseT [b] [b]) = true := by
  decide +kernel

/-- Vectors E9 to E18: a reserved bit of each layout. -/
theorem test_reserved_bits :
    ([(0x32, 0x08), (0x30, 0x88), (0x50, 0x04), (0x60, 0x84), (0x21, 0x04), (0x01, 0x40), (0x0C, 0x04), (0x04, 0x08),
      (0x72, 0x10), (0xBB, 0x04)] : List (Byte × Byte)).all (fun p => stops baseT [p.1, p.2] [p.1, p.2]) = true := by
  decide +kernel

/-- Vectors E19, E20: every field bit at 1 is legal. -/
theorem test_full_fields :
    (runs (baseT.poke 0x579A 0x3C) [0x04, 0xF7] 0 (fun s => (s.setB .b7 0x3C).setPc 0x0102) &&
      runs baseT [0x30, 0x77] 0 (fun s => s.setPc 0x0102)) = true := by decide +kernel

/-! ## Well-formedness (R84, R247) -/

/-- The one check refuses INT 0 and INT 17, and the machine refuses them by name; INT 1 and INT 16 pass. -/
theorem test_int_out_of_range :
    (Instr.int 0).wf = false ∧ (Instr.int 17).wf = false ∧ (Instr.int 1).wf = true ∧ (Instr.int 16).wf = true ∧
    exec (.int 0) baseT = .refused (.illFormed "INT") ∧ exec (.int 17) baseT = .refused (.illFormed "INT") :=
  ⟨rfl, rfl, rfl, rfl, rfl, rfl⟩

/-! ## One step of each instruction (spec 95_test_vectors.md) -/

/-- ldbM0 T1; ldbM1 T6; ldbM2 T10; ldbM3 T15; ldbM4 T19. -/
theorem test_byte_loads :
    (runs baseT [0x00, 0x03, 0x00, 0x20] 0b00000 (fun s => (s.setB .b3 0x5A).setPc 0x0104) &&
      runs baseT [0x01, 0x12] 0b00000 (fun s => (s.setB .b2 0x5A).setPc 0x0102) &&
      runs baseT [0x02, 0x15, 0x10, 0x00] 0b00000 (fun s => (s.setB .b5 0x77).setPc 0x0104) &&
      runs baseT [0x03, 0x20] 0b00000 (fun s => (s.setB .b0 0xEE).setPc 0x0102) &&
      runs baseT [0x04, 0x60] 0b00000 (fun s => (s.setB .b0 0x77).setPc 0x0102)) = true := by
  decide +kernel

/-- ldwM0 T3, T31; ldwM1 T7; ldwM2 T11, T12; ldwM3 T16; ldwM4 T20, T21. -/
theorem test_word_loads :
    (runs (baseT.poke 0x2002 0xC3) [0x08, 0x02, 0x01, 0x20] 0b00000
        (fun s => (s.setW .w2 0xC3A5).setPc 0x0104) &&
      runs ((baseT.poke 0x0000 0xBB).poke 0xFFFF 0xAA) [0x08, 0x00, 0xFF, 0xFF] 0b00000
        (fun s => (s.setW .w0 0xBBAA).setPc 0x0104) &&
      runs baseT [0x09, 0x11] 0b00000 (fun s => (s.setW .w1 0xA55A).setPc 0x0102) &&
      runs (baseT.load 0x1FF0 [0x99, 0x66]) [0x0A, 0x10, 0xF0, 0xFF] 0b00000
        (fun s => (s.setW .w0 0x6699).setPc 0x0104) &&
      runs baseT [0x0A, 0x13, 0x10, 0x00] 0b00000 (fun s => (s.setW .w3 0x8877).setPc 0x0104) &&
      runs baseT [0x0B, 0x20] 0b00000 (fun s => (s.setW .w0 0xFFEE).setPc 0x0102) &&
      runs baseT [0x0C, 0x63] 0b00000 (fun s => (s.setW .w3 0x8877).setPc 0x0102) &&
      runs baseT [0x0C, 0x51] 0b00000 (fun s => (s.setW .w1 0x2211).setPc 0x0102)) = true := by
  decide +kernel

/-- srbM0 T4; srbM1 T8; srbM2 T13; srbM3 T17; srbM4 T22. -/
theorem test_byte_stores :
    (runs baseT [0x10, 0x06, 0x00, 0x30] 0b00000 (fun s => (s.poke 0x3000 0xCD).setPc 0x0104) &&
      runs baseT [0x11, 0x10] 0b00000 (fun s => (s.poke 0x2000 0x34).setPc 0x0102) &&
      runs baseT [0x12, 0x20, 0x00, 0x40] 0b00000 (fun s => (s.poke 0x4010 0x34).setPc 0x0104) &&
      runs baseT [0x13, 0x27] 0b00000 (fun s => (s.poke 0x8010 0xAB).setPc 0x0102) &&
      runs baseT [0x14, 0x64] 0b00000 (fun s => (s.poke 0x2010 0x10).setPc 0x0102)) = true := by
  decide +kernel

/-- srwM0 T5; srwM1 T9; srwM2 T14; srwM3 T18; srwM4 T23. -/
theorem test_word_stores :
    (runs baseT [0x18, 0x03, 0xFF, 0xFF] 0b00000
        (fun s => ((s.poke 0x0000 0xAB).poke 0xFFFF 0xCD).setPc 0x0104) &&
      runs baseT [0x19, 0x13] 0b00000 (fun s => (s.load 0x2000 [0xCD, 0xAB]).setPc 0x0102) &&
      runs baseT [0x1A, 0x20, 0x00, 0x40] 0b00000 (fun s => (s.load 0x4010 [0x34, 0x12]).setPc 0x0104) &&
      runs (baseT.setW .w2 0xFFFE) [0x1B, 0x23] 0b00000
        (fun s => (s.load 0x7FFE [0xCD, 0xAB]).setPc 0x0102) &&
      runs baseT [0x1C, 0x60] 0b00000 (fun s => (s.load 0x2010 [0x34, 0x12]).setPc 0x0102)) = true := by
  decide +kernel

/-- pushf T24; push T26, T27; popf T28; pop T29, T30. -/
theorem test_stack :
    (runs (baseT.withFlags 0b10101) [0x20] 0b10101
        (fun s => ((s.setSp 0x7FFE).load 0x7FFE [0x15, 0x00]).setPc 0x0101) &&
      runs baseT [0x21, 0x03] 0b00000 (fun s => ((s.setSp 0x7FFE).load 0x7FFE [0xCD, 0xAB]).setPc 0x0102) &&
      runs (baseT.setSp 0x0001) [0x21, 0x00] 0b00000
        (fun s => (((s.setSp 0xFFFF).poke 0x0000 0x12).poke 0xFFFF 0x34).setPc 0x0102) &&
      runs (baseT.load 0x8000 [0xEB, 0xFF]) [0x22] 0b01011 (fun s => (s.setSp 0x8002).setPc 0x0101) &&
      runs (baseT.load 0x8000 [0x78, 0x56]) [0x23, 0x02] 0b00000
        (fun s => ((s.setW .w2 0x5678).setSp 0x8002).setPc 0x0102) &&
      runs (((baseT.setSp 0xFFFF).poke 0x0000 0xBB).poke 0xFFFF 0xAA) [0x23, 0x00] 0b00000
        (fun s => ((s.setW .w0 0xBBAA).setSp 0x0001).setPc 0x0102)) = true := by
  decide +kernel

/-- movb A1; movbi A2; swpb A54. -/
theorem test_byte_moves :
    (runs baseA [0x30, 0x10] 0b00000 (fun s => (s.setB .b0 0x12).setPc 0x0102) &&
      runs (baseA.withFlags 0b11111) [0x31, 0x05, 0xA5] 0b11111 (fun s => (s.setB .b5 0xA5).setPc 0x0103) &&
      runs (baseA.withFlags 0b11111) [0x45, 0x10] 0b11111 (fun s => (s.setW .w0 0x3412).setPc 0x0102)) = true := by
  decide +kernel

/-- notb A3, A4; andb A5, A6; orb A7; eorb A8, A9. -/
theorem test_byte_logic :
    (runs baseA [0x32, 0x02] 0b00000 (fun s => (s.setB .b2 0x0F).setPc 0x0102) &&
      runs (baseA.withFlags 0b00101) [0x32, 0x07] 0b00111 (fun s => (s.setB .b7 0x00).setPc 0x0102) &&
      runs baseA [0x33, 0x32] 0b00010 (fun s => (s.setB .b2 0x00).setPc 0x0102) &&
      runs baseA [0x33, 0x74] 0b01000 (fun s => s.setPc 0x0102) &&
      runs baseA [0x34, 0x32] 0b01000 (fun s => (s.setB .b2 0xFF).setPc 0x0102) &&
      runs baseA [0x35, 0x01] 0b00000 (fun s => (s.setB .b1 0x26).setPc 0x0102) &&
      runs (baseA.withFlags 0b00001) [0x35, 0x44] 0b00011 (fun s => (s.setB .b4 0x00).setPc 0x0102)) = true := by
  decide +kernel

/-- incb A13, A14; addb A19, A21; adcb A28, A29. -/
theorem test_byte_adds :
    (runs baseA [0x37, 0x05] 0b01100 (fun s => (s.setB .b5 0x80).setPc 0x0102) &&
      runs baseA [0x37, 0x07] 0b00011 (fun s => (s.setB .b7 0x00).setPc 0x0102) &&
      runs baseA [0x39, 0x72] 0b01001 (fun s => (s.setB .b2 0xEF).setPc 0x0102) &&
      runs baseA [0x39, 0x44] 0b00111 (fun s => (s.setB .b4 0x00).setPc 0x0102) &&
      runs (baseA.withFlags 0b00001) [0x3B, 0x67] 0b00011 (fun s => (s.setB .b7 0x00).setPc 0x0102) &&
      runs (baseA.withFlags 0b00001) [0x3B, 0x65] 0b01100 (fun s => (s.setB .b5 0x80).setPc 0x0102)) = true := by
  decide +kernel

/-- negb A11, A12; decb A15, A16; subb A23, A24; sbbb A31, A32. -/
theorem test_byte_subtracts :
    (runs baseA [0x36, 0x04] 0b01100 (fun s => s.setPc 0x0102) &&
      runs baseA [0x36, 0x06] 0b00011 (fun s => s.setPc 0x0102) &&
      runs baseA [0x38, 0x04] 0b00101 (fun s => (s.setB .b4 0x7F).setPc 0x0102) &&
      runs baseA [0x38, 0x06] 0b01000 (fun s => (s.setB .b6 0xFF).setPc 0x0102) &&
      runs baseA [0x3A, 0x01] 0b01000 (fun s => (s.setB .b1 0xDE).setPc 0x0102) &&
      runs baseA [0x3A, 0x54] 0b00101 (fun s => (s.setB .b4 0x01).setPc 0x0102) &&
      runs (baseA.withFlags 0b00000) [0x3C, 0x10] 0b00001 (fun s => (s.setB .b0 0x21).setPc 0x0102) &&
      runs (baseA.withFlags 0b00000) [0x3C, 0x66] 0b01000 (fun s => (s.setB .b6 0xFF).setPc 0x0102)) = true := by
  decide +kernel

/-- shlb1 A33, A34; shlb A37, A40; shrb1 A41; shrb A43, A44; sarb1 A45, A46; sarb A48, A49; rorb A50, A51; rolb A52,
A53. -/
theorem test_byte_shifts :
    (runs baseA [0x3D, 0x04] 0b00011 (fun s => (s.setB .b4 0x00).setPc 0x0102) &&
      runs (baseA.withFlags 0b00100) [0x3D, 0x05] 0b01100 (fun s => (s.setB .b5 0xFE).setPc 0x0102) &&
      runs (baseA.withFlags 0b00001) [0x3E, 0x67] 0b01001 (fun s => s.setPc 0x0102) &&
      runs baseA [0x3E, 0x33] 0b00010 (fun s => (s.setB .b3 0x00).setPc 0x0102) &&
      runs baseA [0x3F, 0x03] 0b00001 (fun s => (s.setB .b3 0x07).setPc 0x0102) &&
      runs (baseA.setB .b0 0x08) [0x40, 0x04] 0b00011 (fun s => (s.setB .b4 0x00).setPc 0x0102) &&
      runs baseA [0x40, 0x74] 0b00010 (fun s => (s.setB .b4 0x00).setPc 0x0102) &&
      runs baseA [0x41, 0x04] 0b01000 (fun s => (s.setB .b4 0xC0).setPc 0x0102) &&
      runs baseA [0x41, 0x03] 0b00001 (fun s => (s.setB .b3 0x07).setPc 0x0102) &&
      runs (baseA.setB .b0 0x08) [0x42, 0x04] 0b01001 (fun s => (s.setB .b4 0xFF).setPc 0x0102) &&
      runs (baseA.setB .b0 0xC8) [0x42, 0x05] 0b00010 (fun s => (s.setB .b5 0x00).setPc 0x0102) &&
      runs baseA [0x43, 0x03] 0b01001 (fun s => (s.setB .b3 0x87).setPc 0x0102) &&
      runs (baseA.withFlags 0b00001) [0x43, 0x00] 0b00000 (fun s => (s.setB .b0 0x1A).setPc 0x0102) &&
      runs baseA [0x44, 0x04] 0b00001 (fun s => (s.setB .b4 0x01).setPc 0x0102) &&
      runs (baseA.withFlags 0b00001) [0x44, 0x05] 0b01000 (fun s => (s.setB .b5 0xFE).setPc 0x0102)) = true := by
  decide +kernel

/-- movw B1; movwi B2; movsw B3; movws B4; swpw B44. -/
theorem test_word_moves :
    (runs baseB [0x50, 0x30] 0b00000 (fun s => (s.setW .w0 0x7FFF).setPc 0x0102) &&
      runs baseB [0x51, 0x01, 0xEF, 0xBE] 0b00000 (fun s => (s.setW .w1 0xBEEF).setPc 0x0104) &&
      runs baseB [0x52, 0x00] 0b00000 (fun s => (s.setSp 0x1234).setPc 0x0102) &&
      runs baseB [0x53, 0x01] 0b00000 (fun s => (s.setW .w1 0x8000).setPc 0x0102) &&
      runs baseB [0x67, 0x30] 0b00000 (fun s => ((s.setW .w0 0x7FFF).setW .w3 0x1234).setPc 0x0102)) = true := by
  decide +kernel

/-- notw B5; andw B6, B7; orw B8; eorw B9, B10. -/
theorem test_word_logic :
    (runs baseB [0x54, 0x01] 0b00000 (fun s => (s.setW .w1 0x0FF0).setPc 0x0102) &&
      runs baseB [0x55, 0x10] 0b00000 (fun s => (s.setW .w0 0x1004).setPc 0x0102) &&
      runs (baseB.withFlags 0b00101) [0x55, 0x32] 0b00111 (fun s => (s.setW .w2 0x0000).setPc 0x0102) &&
      runs baseB [0x56, 0x32] 0b01000 (fun s => (s.setW .w2 0xFFFF).setPc 0x0102) &&
      runs baseB [0x57, 0x10] 0b01000 (fun s => (s.setW .w0 0xE23B).setPc 0x0102) &&
      runs baseB [0x57, 0x33] 0b00010 (fun s => (s.setW .w3 0x0000).setPc 0x0102)) = true := by
  decide +kernel

/-- incw B13, B14; addw B17, B19; adcw B24. -/
theorem test_word_adds :
    (runs baseB [0x59, 0x03] 0b01100 (fun s => (s.setW .w3 0x8000).setPc 0x0102) &&
      runs (baseB.setW .w1 0xFFFF) [0x59, 0x01] 0b00011 (fun s => (s.setW .w1 0x0000).setPc 0x0102) &&
      runs baseB [0x5B, 0x10] 0b00001 (fun s => (s.setW .w0 0x0243).setPc 0x0102) &&
      runs baseB [0x5B, 0x22] 0b00111 (fun s => (s.setW .w2 0x0000).setPc 0x0102) &&
      runs (baseB.withFlags 0b00001) [0x5D, 0x10] 0b00001 (fun s => (s.setW .w0 0x0244).setPc 0x0102)) = true := by
  decide +kernel

/-- negw B11, B12; decw B15, B16; subw B21, B22; sbbw B25, B26. -/
theorem test_word_subtracts :
    (runs baseB [0x58, 0x00] 0b01000 (fun s => (s.setW .w0 0xEDCC).setPc 0x0102) &&
      runs baseB [0x58, 0x02] 0b01100 (fun s => s.setPc 0x0102) &&
      runs baseB [0x5A, 0x02] 0b00101 (fun s => (s.setW .w2 0x7FFF).setPc 0x0102) &&
      runs (baseB.setW .w2 0x0000) [0x5A, 0x02] 0b01000 (fun s => (s.setW .w2 0xFFFF).setPc 0x0102) &&
      runs baseB [0x5C, 0x10] 0b00000 (fun s => (s.setW .w0 0x2225).setPc 0x0102) &&
      runs baseB [0x5C, 0x02] 0b00101 (fun s => (s.setW .w2 0x6DCC).setPc 0x0102) &&
      runs (baseB.withFlags 0b00000) [0x5E, 0x01] 0b01001 (fun s => (s.setW .w1 0xDDDA).setPc 0x0102) &&
      runs (baseB.withFlags 0b00001) [0x5E, 0x01] 0b01001 (fun s => (s.setW .w1 0xDDDB).setPc 0x0102)) = true := by
  decide +kernel

/-- shlw1 B27; shlwb B29, B30; shrw1 B33; shrwb B34, B35; sarw1 B36; sarwb B37, B39; rorw B40, B41; rolw B42, B43.
-/
theorem test_word_shifts :
    (runs baseB [0x5F, 0x02] 0b00011 (fun s => (s.setW .w2 0x0000).setPc 0x0102) &&
      runs (baseB.setW .w0 0x0104) [0x60, 0x00] 0b00000 (fun s => (s.setW .w0 0x1040).setPc 0x0102) &&
      runs (baseB.setB .b4 0x10) [0x60, 0x43] 0b00011 (fun s => (s.setW .w3 0x0000).setPc 0x0102) &&
      runs baseB [0x61, 0x01] 0b00001 (fun s => (s.setW .w1 0x7807).setPc 0x0102) &&
      runs (baseB.setB .b4 0x08) [0x62, 0x41] 0b00000 (fun s => (s.setW .w1 0x00F0).setPc 0x0102) &&
      runs (baseB.setB .b4 0x10) [0x62, 0x41] 0b00011 (fun s => (s.setW .w1 0x0000).setPc 0x0102) &&
      runs baseB [0x63, 0x02] 0b01000 (fun s => (s.setW .w2 0xC000).setPc 0x0102) &&
      runs (baseB.setB .b4 0x04) [0x64, 0x41] 0b01001 (fun s => (s.setW .w1 0xFF00).setPc 0x0102) &&
      runs (baseB.setB .b4 0x10) [0x64, 0x43] 0b00010 (fun s => (s.setW .w3 0x0000).setPc 0x0102) &&
      runs baseB [0x65, 0x01] 0b01001 (fun s => (s.setW .w1 0xF807).setPc 0x0102) &&
      runs (baseB.withFlags 0b00001) [0x65, 0x00] 0b00000 (fun s => (s.setW .w0 0x091A).setPc 0x0102) &&
      runs baseB [0x66, 0x02] 0b00001 (fun s => (s.setW .w2 0x0001).setPc 0x0102) &&
      runs (baseB.withFlags 0b00001) [0x66, 0x03] 0b01000 (fun s => (s.setW .w3 0xFFFE).setPc 0x0102)) = true := by
  decide +kernel

/-- jR J3, J6; jA J7; jX J8. -/
theorem test_jumps :
    (runs baseT [0x70, 0x80] 0b00000 (fun s => s.setPc 0x0082) &&
      runs (baseT.setPc 0x0004) [0x70, 0xF0] 0b00000 (fun s => s.setPc 0xFFF6) &&
      runs baseT [0x71, 0x00, 0x30] 0b00000 (fun s => s.setPc 0x3000) &&
      runs baseT [0x72, 0x03] 0b00000 (fun s => s.setPc 0xABCD)) = true := by
  decide +kernel

/-- cR J12; cA J10; cX J11; int J16, J17; ret J13; iret J18, J19. -/
theorem test_calls_and_returns :
    (runs (baseT.setSp 0x0001) [0x73, 0x10] 0b00000
        (fun s => (((s.setSp 0xFFFF).poke 0x0000 0x01).poke 0xFFFF 0x02).setPc 0x0112) &&
      runs baseT [0x74, 0x00, 0x30] 0b00000
        (fun s => ((s.setSp 0x7FFE).load 0x7FFE [0x03, 0x01]).setPc 0x3000) &&
      runs baseT [0x75, 0x01] 0b00000 (fun s => ((s.setSp 0x7FFE).load 0x7FFE [0x02, 0x01]).setPc 0x2000) &&
      runs ((baseT.load 0xFFFE [0x00, 0x4F]).withFlags 0b00010) [0x8F] 0b00010
        (fun s => ((s.setSp 0x7FFC).load 0x7FFC [0x02, 0x00, 0x01, 0x01]).setPc 0x4F00) &&
      runs (((baseT.setSp 0xFFE4).load 0xFFE0 [0x00, 0x40]).withFlags 0b00001) [0x80] 0b00001
        (fun s => ((s.setSp 0xFFE0).load 0xFFE0 [0x01, 0x00, 0x01, 0x01]).setPc 0x0001) &&
      runs (((baseT.setSp 0x7FFE).load 0x7FFE [0x03, 0x01]).setPc 0x3000) [0xA0] 0b00000
        (fun s => (s.setSp 0x8000).setPc 0x0103) &&
      runs (((baseT.setSp 0x7FFC).load 0x7FFC [0x13, 0x00, 0x03, 0x01]).setPc 0x4100) [0xA1] 0b10011
        (fun s => (s.setSp 0x8000).setPc 0x0103) &&
      runs ((((baseT.setSp 0x7FFC).load 0x7FFC [0xEA, 0xFF, 0x03, 0x01]).setPc 0x4100).withFlags 0b10001) [0xA1] 0b01010
        (fun s => (s.setSp 0x8000).setPc 0x0103)) = true := by
  decide +kernel

/-- jz K2, K24; jnz K3, K23; jc K4; jnc K5; jn K6; jnn K7; jv K8; jnv K9; ja K10, K11; jbe K12, K13; jge K16; jl
K17; jg K18, K19; jle K21, K22. -/
theorem test_conditional_jumps :
    (runs (baseT.withFlags 0b11101) [0x90, 0x10] 0b11101 (fun s => s.setPc 0x0102) &&
      runs ((baseT.setPc 0x0000).withFlags 0b00010) [0x90, 0x80] 0b00010 (fun s => s.setPc 0xFF82) &&
      runs baseT [0x91, 0x10] 0b00000 (fun s => s.setPc 0x0112) &&
      runs ((baseT.setPc 0x0018).withFlags 0b00000) [0x91, 0xF4] 0b00000 (fun s => s.setPc 0x000E) &&
      runs (baseT.withFlags 0b00001) [0x92, 0x10] 0b00001 (fun s => s.setPc 0x0112) &&
      runs (baseT.withFlags 0b00001) [0x93, 0x10] 0b00001 (fun s => s.setPc 0x0102) &&
      runs (baseT.withFlags 0b01000) [0x94, 0x10] 0b01000 (fun s => s.setPc 0x0112) &&
      runs (baseT.withFlags 0b01000) [0x95, 0x10] 0b01000 (fun s => s.setPc 0x0102) &&
      runs (baseT.withFlags 0b00100) [0x96, 0x10] 0b00100 (fun s => s.setPc 0x0112) &&
      runs (baseT.withFlags 0b00100) [0x97, 0x10] 0b00100 (fun s => s.setPc 0x0102) &&
      runs (baseT.withFlags 0b00001) [0x98, 0x10] 0b00001 (fun s => s.setPc 0x0112) &&
      runs (baseT.withFlags 0b00011) [0x98, 0x10] 0b00011 (fun s => s.setPc 0x0102) &&
      runs (baseT.withFlags 0b00000) [0x99, 0x10] 0b00000 (fun s => s.setPc 0x0112) &&
      runs (baseT.withFlags 0b00011) [0x99, 0x10] 0b00011 (fun s => s.setPc 0x0112) &&
      runs (baseT.withFlags 0b01100) [0x9A, 0x10] 0b01100 (fun s => s.setPc 0x0112) &&
      runs (baseT.withFlags 0b01000) [0x9B, 0x10] 0b01000 (fun s => s.setPc 0x0112) &&
      runs (baseT.withFlags 0b01100) [0x9C, 0x10] 0b01100 (fun s => s.setPc 0x0112) &&
      runs (baseT.withFlags 0b00010) [0x9C, 0x10] 0b00010 (fun s => s.setPc 0x0102) &&
      runs (baseT.withFlags 0b00100) [0x9D, 0x10] 0b00100 (fun s => s.setPc 0x0112) &&
      runs (baseT.withFlags 0b10000) [0x9D, 0x10] 0b10000 (fun s => s.setPc 0x0102)) = true := by
  decide +kernel

/-- nop M1, M2; sti M3; stc M4; stz M5; stv M6; stn M7. -/
theorem test_flag_sets :
    (runs (baseT.withFlags 0b10101) [0xB0] 0b10101 (fun s => s.setPc 0x0101) &&
      runs (baseT.setPc 0xFFFF) [0xB0] 0b00000 (fun s => s.setPc 0x0000) &&
      runs baseT [0xB1] 0b10000 (fun s => s.setPc 0x0101) &&
      runs baseT [0xB2] 0b00001 (fun s => s.setPc 0x0101) &&
      runs baseT [0xB3] 0b00010 (fun s => s.setPc 0x0101) &&
      runs baseT [0xB4] 0b00100 (fun s => s.setPc 0x0101) &&
      runs baseT [0xB5] 0b01000 (fun s => s.setPc 0x0101)) = true := by
  decide +kernel

/-- cli M8; clc M9; clz M10; clv M11; cln M12. -/
theorem test_flag_clears :
    (runs (baseT.withFlags 0b11111) [0xB6] 0b01111 (fun s => s.setPc 0x0101) &&
      runs (baseT.withFlags 0b11111) [0xB7] 0b11110 (fun s => s.setPc 0x0101) &&
      runs (baseT.withFlags 0b11111) [0xB8] 0b11101 (fun s => s.setPc 0x0101) &&
      runs (baseT.withFlags 0b11111) [0xB9] 0b11011 (fun s => s.setPc 0x0101) &&
      runs (baseT.withFlags 0b11111) [0xBA] 0b10111 (fun s => s.setPc 0x0101)) = true := by
  decide +kernel

/-- lea M14, M15. -/
theorem test_lea :
    (runs baseT [0xBB, 0x00, 0xFC, 0xFF] 0b00000 (fun s => (s.setW .w0 0x0100).setPc 0x0104) &&
      runs (baseT.setPc 0xFFFE) [0xBB, 0x00, 0x00, 0x01] 0b00000
        (fun s => (s.setW .w0 0x0102).setPc 0x0002)) = true := by
  decide +kernel

/-- The sixteen values of N V Z C against the fourteen conditions, in the order Z, NZ, C, NC, N, NN, V, NV, A, BE, GE,
L, G, LE (section 3 of 95_test_vectors.md). -/
theorem test_condition_table : ([
    (0b00000, 0b01010101011010), (0b00001, 0b01100101101010), (0b00010, 0b10010101011001),
    (0b00011, 0b10100101011001), (0b00100, 0b01010110010101), (0b00101, 0b01100110100101),
    (0b00110, 0b10010110010101), (0b00111, 0b10100110010101), (0b01000, 0b01011001010101),
    (0b01001, 0b01101001100101), (0b01010, 0b10011001010101), (0b01011, 0b10101001010101),
    (0b01100, 0b01011010011010), (0b01101, 0b01101010101010), (0b01110, 0b10011010011001),
    (0b01111, 0b10101010011001)] : List (BitVec 5 × Nat)).all (fun p =>
    decide (([Cond.z, .nz, .c, .nc, .n, .nn, .v, .nv, .a, .be Config.jbeCond, .ge, .l, .g, .le] : List Cond).foldl
      (fun k q => 2 * k + (q.holds (State.reset.withFlags p.1).fl).toNat) 0 = p.2)) = true := by decide +kernel
/-! ## Witnesses: states and operands that meet the hypotheses of the statements -/

/-- A state with every flag set, for the clauses whose conditions need them. -/
def baseF : State := baseT.withFlags 0b11111

/-- The opcode bytes of the default map are pairwise different, and INT 16 is well formed. -/
theorem test_witness_EncodingDecodesToItself :
    (∀ o o' : Op, opcodeByte o = opcodeByte o' → o = o') ∧ (Instr.int 16).wf = true := by
  have back : ∀ o : Op, opOfByte opcodeByte (opcodeByte o) = some o := by
    intro o
    cases o with
    | ldb m => cases m <;> rfl
    | ldw m => cases m <;> rfl
    | srb m => cases m <;> rfl
    | srw m => cases m <;> rfl
    | int v => revert v; decide +kernel
    | _ => rfl
  refine ⟨fun o o' h => ?_, rfl⟩
  have e := back o
  rw [h, back o'] at e
  injection e with e
  exact e.symm

theorem test_witness_DecodedBytesAreTheEncoding :
    decodeWith opcodeByte [0x70, 0xFE, 0xAA] = .ok (.jR 0xFE) [0xAA] := rfl

/-- MOVWI with two register bytes and two immediates: the same opcode byte, the same length. -/
theorem test_witness_LengthIsAFunctionOfTheOpcodeByte :
    decodeWith opcodeByte [0x51, 0x01, 0xEF, 0xBE] = .ok (.movwi .w1 0xBEEF) [] ∧
    decodeWith opcodeByte [0x51, 0x03, 0x00, 0x00, 0xAA] = .ok (.movwi .w3 0) [0xAA] ∧
    (encodeWith opcodeByte (.movwi .w1 0xBEEF)).length = 4 := by decide +kernel

/-- One opcode byte in two states that share no address and no flag, and the four bytes that fix the fetch. -/
theorem test_witness_FetchDependsOnItsBytes :
    let s := baseT.load 0x0100 [0x51, 0x01, 0xEF, 0xBE]
    let s' := ((baseT.setPc 0xFFFE).withFlags 0b11111).load 0xFFFE [0x51, 0x03, 0x00, 0x80]
    s.fetchWith opcodeByte = .ok (.movwi .w1 0xBEEF) [] ∧ s'.fetchWith opcodeByte = .ok (.movwi .w3 0x8000) [] ∧
    s'.mem.readByte s'.pc = s.mem.readByte s.pc ∧
    ∀ k < 4, (s.withFlags 0b11111).mem.readByte ((s.withFlags 0b11111).pc + BitVec.ofNat 16 k) =
      s.mem.readByte (s.pc + BitVec.ofNat 16 k) :=
  ⟨by decide +kernel, by decide +kernel, by decide +kernel, fun _ _ => rfl⟩

/-- Both kinds of illegal encoding, and a legal one at the top of the address space. -/
theorem test_witness_IllegalInstruction :
    step (baseT.poke 0x0100 0xBC) = .fault (.illegalInstruction 0x0100 [0xBC]) ∧
    step (baseT.load 0x0100 [0x1C, 0x0C]) = .fault (.illegalInstruction 0x0100 [0x1C, 0x0C]) ∧
    runs (baseT.setPc 0xFFFF) [0x14, 0xF7] 0 (fun s => (s.poke 0x579A 0xAB).setPc 0x0001) = true := by
  refine ⟨rfl, rfl, by decide +kernel⟩

theorem test_witness_StepRunsTheDecodedInstruction :
    decode [State.reset.mem.readByte State.reset.pc, State.reset.mem.readByte (State.reset.pc + 1),
      State.reset.mem.readByte (State.reset.pc + 2), State.reset.mem.readByte (State.reset.pc + 3)] =
    .ok (.ldbM0 .b0 0) [] := rfl

/-- A four-byte instruction across the top of the address space. -/
theorem test_witness_StepRunsTheEncodedInstruction :
    let s := (baseT.setPc 0xFFFE).load 0xFFFE [0xBB, 0x02, 0x00, 0x80]
    (Instr.lea .w2 0x8000).wf = true ∧ ∀ (k : Nat) (b : Byte), (encode (.lea .w2 0x8000))[k]? = some b →
      s.mem.readByte (s.pc + BitVec.ofNat 16 k) = b := by
  refine ⟨rfl, fun k b h => ?_⟩
  have e : encode (.lea .w2 0x8000) = [0xBB, 0x02, 0x00, 0x80] := by decide +kernel
  rw [e] at h
  match k with
  | 0 => obtain rfl := Option.some.inj h; rfl
  | 1 => obtain rfl := Option.some.inj h; rfl
  | 2 => obtain rfl := Option.some.inj h; rfl
  | 3 => obtain rfl := Option.some.inj h; rfl
  | _ + 4 => simp at h

/-- The default map turned over, opcode byte for opcode byte: every parameter but the map at its default. -/
def flippedPlatform : Platform := { defaultPlatform with opc := fun o => ~~~opcodeByte o }

/-- Under the map turned over, 0x44 is LEA: a platform with another map of distinct bytes. -/
theorem test_witness_StepRunsUnderAnotherMap :
    let s := baseT.load 0x0100 [0x44, 0x02, 0x00, 0x80]
    (∀ o o' : Op, flippedPlatform.opc o = flippedPlatform.opc o' → o = o') ∧
    s.fetchWith flippedPlatform.opc = .ok (.lea .w2 0x8000) [] ∧
    platformStep flippedPlatform none s = exec (.lea .w2 0x8000) s := by
  refine ⟨fun o o' h => test_witness_EncodingDecodesToItself.1 o o' ?_, by decide +kernel, rfl⟩
  have e := congrArg (fun b : Byte => ~~~b) (show ~~~opcodeByte o = ~~~opcodeByte o' from h)
  simpa using e

theorem test_witness_EveryInstructionCompletes :
    (Instr.int 1).wf = true ∧ (Instr.int 16).wf = true ∧ (Instr.int 0).wf = false ∧ (Instr.int 17).wf = false :=
  ⟨rfl, rfl, rfl, rfl⟩

theorem test_witness_SequentialInstructionsAdvance :
    ([.lea .w0 1, .movbi .b0 1, .push .w0, .popf] : List Instr).all
      (fun i => !Op.branchOps.contains i.op && !Op.intOps.contains i.op) = true := by decide +kernel

/-- A canonical memory, and a step that stores at the top of the address space. -/
theorem test_witness_EveryStepKeepsMemoryCanonical :
    Canonical (baseT.load 0x0100 [0x18, 0x03, 0xFF, 0xFF]) ∧
    runs baseT [0x18, 0x03, 0xFF, 0xFF] 0 (fun s => (s.load 0xFFFF [0xCD, 0xAB]).setPc 0x0104) = true := by
  unfold Canonical
  decide +kernel

/-- A run that ends, and one that is still going. -/
theorem test_witness_EveryRunKeepsMemoryCanonical :
    Canonical State.reset ∧
    runOn { defaultPlatform with haltPC := some 0 } [none] State.reset = .ended State.reset ∧
    runOn defaultPlatform [] State.reset = .running State.reset := ⟨rfl, rfl, rfl⟩

/-- Reset with the host's RESET_PC 0x8000. -/
theorem test_reset_at_the_chosen_pc :
    (State.resetAt 0x8000).pc = 0x8000 ∧ PowerOn { defaultPlatform with resetPC := 0x8000 } (State.resetAt 0x8000) :=
  ⟨rfl, rfl, rfl⟩

/-- The writes of R21 seen in the halves and in another register. -/
theorem test_witness_WordRegistersOverlay :
    (WReg.w0 ≠ WReg.w3) ∧ (baseT.setW .w3 0xBEEF).getB .b6 = 0xEF ∧ (baseT.setW .w3 0xBEEF).getB .b7 = 0xBE ∧
    (baseT.setB .b7 0x11).getW .w3 = 0x11CD ∧ (baseT.setW .w3 0xBEEF).getW .w0 = 0x1234 := by decide +kernel

/-- R57: the word at 0xFFFF, and an address outside it. -/
theorem test_witness_MixedWidthAccesses :
    (0x0001 : Word) ≠ 0xFFFF ∧ (0x0001 : Word) ≠ 0xFFFF + 1 ∧
    (Memory.writeWord [] 0xFFFF 0xABCD).readByte 0x0000 = 0xAB ∧
    (Memory.writeWord [] 0xFFFF 0xABCD).readByte 0xFFFF = 0xCD ∧
    (Memory.writeWord [] 0xFFFF 0xABCD).readByte 0x0001 = 0 := by
  decide +kernel

/-- R28 at SP = 0001: the push wraps below address 0000. -/
theorem test_witness_PushThenPopRestores :
    let s := (baseT.setSp 0x0001).push16 0x1234
    s.sp = 0xFFFF ∧ s.mem.readByte 0xFFFF = 0x34 ∧ s.mem.readByte 0x0000 = 0x12 := by decide +kernel

/-- Two images that agree on bits 4..0. -/
theorem test_witness_FlagImageLayout :
    (0xFFEB : Word) &&& 0x001F = 0x000B &&& 0x001F ∧
    Flags.ofImage 0xFFEB = { i := false, n := true, v := false, z := true, c := true } := by decide

/-- The five modes of each transfer, with the addresses worked out by hand: one in W1, one wrapping past 0xFFFF. -/
theorem test_witness_ByteTransfers :
    let s := baseT
    let x := BReg.b3
    let y := WReg.w1
    let z := WReg.w3
    let imm : Word := 0xFFF0
    (∀ e ∈ ([(.ldbM0 .b3 0xFFF0, 0xFFF0, 4), (.ldbM1 .b3 .w1, 0x2000, 2), (.ldbM2 .b3 .w1 0xFFF0, 0x1FF0, 4),
        (.ldbM3 .b3 .w1, 0xA000, 2), (.ldbM4 .b3 .w1 .w3, 0xCBCD, 2)] : List (Instr × Word × Nat)),
      e ∈ ([(.ldbM0 x imm, imm, 4), (.ldbM1 x y, s.getW y, 2), (.ldbM2 x y imm, s.getW y + imm, 4),
        (.ldbM3 x y, s.sp + s.getW y, 2), (.ldbM4 x y z, s.getW y + s.getW z, 2)] : List (Instr × Word × Nat))) ∧
    (∀ e ∈ ([(.srbM0 .b3 0xFFF0, 0xFFF0, 4), (.srbM1 .b3 .w1, 0x2000, 2), (.srbM2 .b3 .w1 0xFFF0, 0x1FF0, 4),
        (.srbM3 .b3 .w1, 0xA000, 2), (.srbM4 .b3 .w1 .w3, 0xCBCD, 2)] : List (Instr × Word × Nat)),
      e ∈ ([(.srbM0 x imm, imm, 4), (.srbM1 x y, s.getW y, 2), (.srbM2 x y imm, s.getW y + imm, 4),
        (.srbM3 x y, s.sp + s.getW y, 2), (.srbM4 x y z, s.getW y + s.getW z, 2)] : List (Instr × Word × Nat))) := by
  decide +kernel

theorem test_witness_WordTransfers :
    let s := baseT
    let x := WReg.w0
    let y := WReg.w1
    let z := WReg.w3
    let imm : Word := 0xFFF0
    (∀ e ∈ ([(.ldwM0 .w0 0xFFF0, 0xFFF0, 4), (.ldwM1 .w0 .w1, 0x2000, 2), (.ldwM2 .w0 .w1 0xFFF0, 0x1FF0, 4),
        (.ldwM3 .w0 .w1, 0xA000, 2), (.ldwM4 .w0 .w1 .w3, 0xCBCD, 2)] : List (Instr × Word × Nat)),
      e ∈ ([(.ldwM0 x imm, imm, 4), (.ldwM1 x y, s.getW y, 2), (.ldwM2 x y imm, s.getW y + imm, 4),
        (.ldwM3 x y, s.sp + s.getW y, 2), (.ldwM4 x y z, s.getW y + s.getW z, 2)] : List (Instr × Word × Nat))) ∧
    (∀ e ∈ ([(.srwM0 .w0 0xFFF0, 0xFFF0, 4), (.srwM1 .w0 .w1, 0x2000, 2), (.srwM2 .w0 .w1 0xFFF0, 0x1FF0, 4),
        (.srwM3 .w0 .w1, 0xA000, 2), (.srwM4 .w0 .w1 .w3, 0xCBCD, 2)] : List (Instr × Word × Nat)),
      e ∈ ([(.srwM0 x imm, imm, 4), (.srwM1 x y, s.getW y, 2), (.srwM2 x y imm, s.getW y + imm, 4),
        (.srwM3 x y, s.sp + s.getW y, 2), (.srwM4 x y z, s.getW y + s.getW z, 2)] : List (Instr × Word × Nat))) := by
  decide +kernel

/-- The pushed words: the image 0x001F and W3. -/
theorem test_witness_PushesStoreBelowTheStackPointer :
    ∀ e ∈ ([(.pushf, 0x001F, 1), (.push .w3, 0xABCD, 2)] : List (Instr × Word × Nat)),
      e ∈ ([(.pushf, baseF.fl.image, 1), (.push .w3, baseF.getW .w3, 2)] : List (Instr × Word × Nat)) := by
  decide +kernel

theorem test_witness_Moves :
    (∀ e ∈ ([(.movb .b0 .b6, 0xCD, 2), (.movbi .b0 0x80, 0x80, 3)] : List (Instr × Byte × Nat)),
      e ∈ ([(.movb .b0 .b6, baseT.getB .b6, 2), (.movbi .b0 0x80, 0x80, 3)] : List (Instr × Byte × Nat))) ∧
    (∀ e ∈ ([(.movw .w0 .w3, 0xABCD, 2), (.movwi .w0 0x8000, 0x8000, 4), (.movws .w0, 0x8000, 2)] :
        List (Instr × Word × Nat)),
      e ∈ ([(.movw .w0 .w3, baseT.getW .w3, 2), (.movwi .w0 0x8000, 0x8000, 4), (.movws .w0, baseT.sp, 2)] :
        List (Instr × Word × Nat))) := by decide +kernel

/-- The four clauses of the logic statements, byte and word. -/
theorem test_witness_Logic :
    (∃ (i : Instr) (bit : Bool → Bool → Bool), i = .notb .b2 ∧ bit = fun a _ => !a) ∧
    (∃ (i : Instr) (bit : Bool → Bool → Bool), i = .andw .w1 .w2 ∧ bit = fun a b => a && b) ∧
    (∃ (i : Instr) (bit : Bool → Bool → Bool), i = .orb .b2 .b3 ∧ bit = fun a b => a || b) ∧
    ∃ (i : Instr) (bit : Bool → Bool → Bool), i = .eorw .w3 .w3 ∧ bit = fun a b => a != b :=
  ⟨⟨_, _, rfl, rfl⟩, ⟨_, _, rfl, rfl⟩, ⟨_, _, rfl, rfl⟩, ⟨_, _, rfl, rfl⟩⟩

theorem test_witness_Adds :
    (∀ e ∈ ([(.addb .b2 .b7, 0xFF, false), (.adcb .b2 .b7, 0xFF, true), (.incb .b2, 1, false)] :
        List (Instr × Byte × Bool)),
      let s := baseA.withFlags 0b00001
      e ∈ ([(.addb .b2 .b7, s.getB .b7, false), (.adcb .b2 .b7, s.getB .b7, s.fl.c), (.incb .b2, 1, false)] :
        List (Instr × Byte × Bool))) ∧
    (∀ e ∈ ([(.addw .w0 .w3, 0x7FFF, false), (.adcw .w0 .w3, 0x7FFF, true), (.incw .w0, 1, false)] :
        List (Instr × Word × Bool)),
      let s := baseB.withFlags 0b00001
      e ∈ ([(.addw .w0 .w3, s.getW .w3, false), (.adcw .w0 .w3, s.getW .w3, s.fl.c), (.incw .w0, 1, false)] :
        List (Instr × Word × Bool))) := by decide +kernel

/-- With C = 0 the borrow of SBB is 1, with C = 1 it is 0. -/
theorem test_witness_Subtracts :
    (∀ e ∈ ([(.subb .b4 .b5, 0x80, 0x7F, 0), (.sbbb .b4 .b5, 0x80, 0x7F, 1), (.decb .b4, 0x80, 1, 0),
        (.negb .b4, 0, 0x80, 0)] : List (Instr × Byte × Byte × Nat)),
      let s := baseA
      e ∈ ([(.subb .b4 .b5, s.getB .b4, s.getB .b5, 0), (.sbbb .b4 .b5, s.getB .b4, s.getB .b5, 1 - s.fl.c.toNat),
        (.decb .b4, s.getB .b4, 1, 0), (.negb .b4, 0, s.getB .b4, 0)] : List (Instr × Byte × Byte × Nat))) ∧
    (∀ e ∈ ([(.subw .w2 .w0, 0x8000, 0x1234, 0), (.sbbw .w2 .w0, 0x8000, 0x1234, 0), (.decw .w2, 0x8000, 1, 0),
        (.negw .w2, 0, 0x8000, 0)] : List (Instr × Word × Word × Nat)),
      let s := baseB.withFlags 0b00001
      e ∈ ([(.subw .w2 .w0, s.getW .w2, s.getW .w0, 0), (.sbbw .w2 .w0, s.getW .w2, s.getW .w0, 1 - s.fl.c.toNat),
        (.decw .w2, s.getW .w2, 1, 0), (.negw .w2, 0, s.getW .w2, 0)] : List (Instr × Word × Word × Nat))) := by
  decide +kernel

/-- B4 = 80 and W1 = F00F shifted by one. -/
theorem test_witness_OneBitShifts :
    (∀ e ∈ ([(.shlb1 .b4, 0, true), (.shrb1 .b4, 0x40, false), (.sarb1 .b4, 0xC0, false), (.rorb .b4, 0x40, false),
        (.rolb .b4, 1, true)] : List (Instr × Nat × Bool)),
      let a := (baseA.getB .b4).toNat
      e ∈ ([(.shlb1 .b4, 2 * a % 256, decide (128 ≤ a)), (.shrb1 .b4, a / 2, decide (a % 2 = 1)),
        (.sarb1 .b4, a / 2 + 128 * (a / 128), decide (a % 2 = 1)), (.rorb .b4, a / 2 + 128 * (a % 2), decide (a % 2 = 1)),
        (.rolb .b4, 2 * a % 256 + a / 128, decide (128 ≤ a))] : List (Instr × Nat × Bool))) ∧
    (∀ e ∈ ([(.shlw1 .w1, 0xE01E, true), (.shrw1 .w1, 0x7807, true), (.sarw1 .w1, 0xF807, true),
        (.rorw .w1, 0xF807, true), (.rolw .w1, 0xE01F, true)] : List (Instr × Nat × Bool)),
      let a := (baseB.getW .w1).toNat
      e ∈ ([(.shlw1 .w1, 2 * a % 65536, decide (32768 ≤ a)), (.shrw1 .w1, a / 2, decide (a % 2 = 1)),
        (.sarw1 .w1, a / 2 + 32768 * (a / 32768), decide (a % 2 = 1)),
        (.rorw .w1, a / 2 + 32768 * (a % 2), decide (a % 2 = 1)),
        (.rolw .w1, 2 * a % 65536 + a / 32768, decide (32768 ≤ a))] : List (Instr × Nat × Bool))) := by decide +kernel

/-- The counts where the clauses of R12 meet: 0, the width, and one more. -/
theorem test_witness_CountedShiftClosedForms :
    (8 = 8 ∨ 8 = 16) ∧ (16 = 8 ∨ 16 = 16) ∧
    shN .shl 0 (0xFF : Byte) true = (0xFF, true) ∧ shN .shl 8 (0xFF : Byte) false = (0x00, true) ∧
    shN .shl 9 (0xFF : Byte) true = (0x00, false) ∧ shN .shr 16 (0x8000 : Word) false = (0x0000, true) ∧
    shN .shr 17 (0x8000 : Word) true = (0x0000, false) ∧ shN .sar 16 (0xF00F : Word) false = (0xFFFF, true) ∧
    shN .sar 255 (0x7F : Byte) true = (0x00, false) := by decide +kernel

/-- Counts 8 (the width of a byte) and 17 (one more than the width of a word). -/
theorem test_witness_CountedShifts :
    (let s := baseA.setB .b0 0x08
     let a := s.getB .b7
     let cnt := (s.getB .b0).toNat
     ∀ e ∈ ([(.shlb .b7 .b0, 0, true), (.shrb .b7 .b0, 0, true), (.sarb .b7 .b0, 255, true)] : List (Instr × Int × Bool)),
      e ∈ ([(.shlb .b7 .b0, ((a.toNat * 2 ^ cnt % 256 : Nat) : Int),
          if cnt = 0 then s.fl.c else if cnt ≤ 8 then a.getLsbD (8 - cnt) else false),
        (.shrb .b7 .b0, ((a.toNat / 2 ^ cnt : Nat) : Int),
          if cnt = 0 then s.fl.c else if cnt ≤ 8 then a.getLsbD (cnt - 1) else false),
        (.sarb .b7 .b0, a.toInt / 2 ^ cnt % 256,
          if cnt = 0 then s.fl.c else if cnt < 8 then a.getLsbD (cnt - 1) else a.msb)] : List (Instr × Int × Bool))) ∧
    (let s := baseB.setB .b0 0x11
     let a := s.getW .w3
     let cnt := (s.getB .b0).toNat
     ∀ e ∈ ([(.shlwb .w3 .b0, 0, false), (.shrwb .w3 .b0, 0, false), (.sarwb .w3 .b0, 0, false)] :
        List (Instr × Int × Bool)),
      e ∈ ([(.shlwb .w3 .b0, ((a.toNat * 2 ^ cnt % 65536 : Nat) : Int),
          if cnt = 0 then s.fl.c else if cnt ≤ 16 then a.getLsbD (16 - cnt) else false),
        (.shrwb .w3 .b0, ((a.toNat / 2 ^ cnt : Nat) : Int),
          if cnt = 0 then s.fl.c else if cnt ≤ 16 then a.getLsbD (cnt - 1) else false),
        (.sarwb .w3 .b0, a.toInt / 2 ^ cnt % 65536,
          if cnt = 0 then s.fl.c else if cnt < 16 then a.getLsbD (cnt - 1) else a.msb)] :
        List (Instr × Int × Bool))) := by decide +kernel

/-- Calls from 0xFFFE: the return address wraps, and the relative target is below address 0000. -/
theorem test_witness_CallsPushTheReturnAddress :
    let s := baseT.setPc 0xFFFE
    ∀ e ∈ ([(.cR 0x80, 65408, 2), (.cA 0x3000, 0x3000, 3), (.cX .w3, 0xABCD, 2)] : List (Instr × Int × Nat)),
      e ∈ ([(.cR 0x80, ((s.pc.toNat : Int) + 2 + (0x80 : Byte).toInt) % 65536, 2),
        (.cA 0x3000, ((0x3000 : Word).toNat : Int), 3), (.cX .w3, ((s.getW .w3).toNat : Int), 2)] :
        List (Instr × Int × Nat)) := by decide +kernel

/-- Both ends of the range of vector numbers. -/
theorem test_witness_IntEntersThroughItsVector :
    (1 ≤ 1 ∧ 1 ≤ 16) ∧ (1 ≤ 16 ∧ 16 ≤ 16) ∧ intTarget.reads 1 = [0xFFE0, 0xFFE1] ∧
    intTarget.reads 16 = [0xFFFE, 0xFFFF] := by decide

/-- A platform whose vectors are fixed addresses, 8 bytes apart, and whose JBE is the printed one. -/
def fixedVectors : Platform :=
  { defaultPlatform with
    intTarget := { reads := fun _ => [], target := fun n _ => BitVec.ofNat 16 (8 * n) }
    jbeCond := .printed }

/-- INT 16 through fixed addresses goes to 0x0080, with the pushes as by default. -/
theorem test_int_through_fixed_vectors :
    execOn fixedVectors (.int 16) baseF = .next ((baseF.enterVector intTarget (baseF.npc 1) 16).setPc 0x0080) := rfl

/-- The two readings of JBE where they differ: C = 0 with Z = 0, and C = 1 with Z = 1 (R257). -/
theorem test_jbe_readings :
    execOn fixedVectors (.jbe 0x10) baseT = .next (baseT.setPc 0x0102) ∧
    execOn defaultPlatform (.jbe 0x10) baseT = .next (baseT.setPc 0x0112) ∧
    execOn fixedVectors (.jbe 0x10) baseF = .next (baseF.setPc 0x0102) ∧
    execOn defaultPlatform (.jbe 0x10) baseF = .next (baseF.setPc 0x0112) := ⟨rfl, rfl, rfl, rfl⟩

/-- The clauses of JBE under each reading, and instructions that name no parameter. -/
theorem test_witness_PlatformChoosesOnlyIntTargetAndJbeCondition :
    Instr.nop.op ∉ Op.intOps ∧ Instr.nop.op ≠ .jbe ∧ (Instr.ja 0).op ∉ Op.intOps ∧ (Instr.ja 0).op ≠ .jbe ∧
    (True ↔ (defaultPlatform.jbeCond = .resolved ∧ (baseT.fl.c = false ∨ baseT.fl.z = true)) ∨
      (defaultPlatform.jbeCond = .printed ∧ baseT.fl.c = false ∧ baseT.fl.z = true)) ∧
    (False ↔ (fixedVectors.jbeCond = .resolved ∧ (baseT.fl.c = false ∨ baseT.fl.z = true)) ∨
      (fixedVectors.jbeCond = .printed ∧ baseT.fl.c = false ∧ baseT.fl.z = true)) := by
  refine ⟨?_, ?_, ?_, ?_, ?_, ?_⟩ <;> decide

/-- Each condition, on flags where it holds and on flags where it does not. -/
theorem test_witness_ConditionalJumps :
    (let f := (baseT.withFlags 0b00011).fl
     (True ↔ f.z = true) ∧ (False ↔ f.z = false) ∧ (True ↔ f.c = true) ∧ (False ↔ f.c = false) ∧ (False ↔ f.n = true) ∧
     (True ↔ f.n = false) ∧ (False ↔ f.v = true) ∧ (True ↔ f.v = false) ∧ (False ↔ f.c = true ∧ f.z = false) ∧
     (True ↔ f.c = false ∨ f.z = true) ∧ (True ↔ f.n = f.v) ∧ (False ↔ f.n ≠ f.v) ∧
     (False ↔ f.z = false ∧ f.n = f.v) ∧ (True ↔ f.z = true ∨ f.n ≠ f.v)) ∧
    (let f := (baseT.withFlags 0b01001).fl
     (False ↔ f.z = true) ∧ (True ↔ f.z = false) ∧ (True ↔ f.n = true) ∧ (False ↔ f.n = false) ∧
     (True ↔ f.c = true ∧ f.z = false) ∧ (False ↔ f.c = false ∨ f.z = true) ∧ (False ↔ f.n = f.v) ∧ (True ↔ f.n ≠ f.v)) ∧
    (let f := (baseT.withFlags 0b01100).fl
     (False ↔ f.c = true) ∧ (True ↔ f.c = false) ∧ (True ↔ f.v = true) ∧ (False ↔ f.v = false) ∧
     (True ↔ f.z = false ∧ f.n = f.v) ∧ (False ↔ f.z = true ∨ f.n ≠ f.v)) := by
  refine ⟨?_, ?_, ?_⟩ <;> simp [State.withFlags, State.setFlags]

/-- INT 16 from a state with every flag set, and a handler that only changes a register. -/
theorem test_witness_IretUndoesInt :
    let t := baseF.enterVector intTarget (baseF.npc 1) 16
    let h := t.setB .b0 0xFF
    execOn defaultPlatform (.int 16) baseF = .next t ∧ h.sp = t.sp ∧
    ∀ a ∈ [baseF.sp - 4, baseF.sp - 3, baseF.sp - 2, baseF.sp - 1], h.mem.readByte a = t.mem.readByte a :=
  ⟨rfl, rfl, fun _ _ => rfl⟩

theorem test_witness_RetUndoesCalls :
    let t := baseT.callTo 2 0x2000
    let h := t.setB .b0 0xFF
    (∀ e ∈ ([(.cR 0x80, 2), (.cA 1, 3), (.cX .w1, 2)] : List (Instr × Nat)),
      e ∈ ([(.cR 0x80, 2), (.cA 1, 3), (.cX .w1, 2)] : List (Instr × Nat))) ∧
    exec (.cX .w1) baseT = .next t ∧ h.sp = t.sp ∧
    ∀ a ∈ [baseT.sp - 2, baseT.sp - 1], h.mem.readByte a = t.mem.readByte a :=
  ⟨fun _ h => h, rfl, rfl, fun _ _ => rfl⟩

theorem test_witness_SelfJumpLoopsForever :
    let s := baseT.load 0x0100 [0x70, 0xFE]
    s.mem.readByte s.pc = 0x70 ∧ s.mem.readByte (s.pc + 1) = 0xFE := by decide +kernel

/-- The clauses of R264 on 0x80 - 0x7F and on 0x8000 - 0x1234: no borrow, and an overflow. -/
theorem test_witness_ConditionsAfterSubtraction :
    (let a := baseA.getB .b4
     let b := baseA.getB .b5
     (False ↔ a = b) ∧ (True ↔ b.toNat ≤ a.toNat) ∧ (True ↔ b.toNat < a.toNat) ∧ (False ↔ b.toInt ≤ a.toInt) ∧
     (True ↔ a.toInt < b.toInt) ∧ (True ↔ a.toInt - b.toInt < -128 ∨ 127 < a.toInt - b.toInt) ∧
     (False ↔ ((baseA.arithB .b4 (subC a b true)).getB .b4).toInt < 0)) ∧
    (let a := baseB.getW .w2
     let b := baseB.getW .w0
     (True ↔ a ≠ b) ∧ (False ↔ a.toNat < b.toNat) ∧ (False ↔ a.toNat ≤ b.toNat) ∧ (False ↔ b.toInt < a.toInt) ∧
     (True ↔ a.toInt ≤ b.toInt) ∧ (False ↔ -32768 ≤ a.toInt - b.toInt ∧ a.toInt - b.toInt ≤ 32767) ∧
     (True ↔ 0 ≤ ((baseB.arithW .w2 (subC a b true)).getW .w2).toInt)) := by decide +kernel

theorem test_witness_FlagInstructionsWriteOneFlag :
    (Instr.nop, baseF.fl) ∈ ([(.nop, baseF.fl), (.cli, { baseF.fl with i := false })] : List (Instr × Flags)) ∧
    (Instr.cli, { baseF.fl with i := false }) ∈
      ([(.nop, baseF.fl), (.cli, { baseF.fl with i := false })] : List (Instr × Flags)) := by decide +kernel

/-- NOP is in no list of writers; STI writes I alone; INT 16 writes SP and memory but no register. -/
theorem test_witness_OnlyListedInstructionsWrite :
    exec .nop baseF = .next (baseF.flagsTo baseF.fl) ∧ exec .sti baseF = .next (baseF.flagsTo { baseF.fl with i := true }) ∧
    exec (.int 16) baseF = .next (baseF.enterVector intTarget (baseF.npc 1) 16) ∧
    Instr.nop.op ∉ [Op.popf, .iret, .sti, .cli] ∧ Instr.sti.op ∉ [Op.popf, .iret, .stn, .cln] ∧
    Instr.nop.op ∉ [Op.pushf, .push, .popf, .pop, .movsw, .cR, .cA, .cX, .ret, .iret] ++ Op.intOps ∧
    (Instr.int 16).op ∈ Op.branchOps ++ Op.intOps ∧
    Instr.nop.op ∉ Op.modes .srb ++ Op.modes .srw ++ [.pushf, .push, .cR, .cA, .cX] ++ Op.intOps :=
  ⟨rfl, rfl, rfl, by decide, by decide, by decide, by decide, by decide⟩

/-- NOP reads no flag; JC reads C: on C = 0 and on C = 1 it goes to different addresses. -/
theorem test_witness_OnlyListedInstructionsReadEachFlag :
    Instr.nop.op ∉ [Op.adcb, .sbbb, .adcw, .sbbw, .jc, .jnc, .ja, .jbe] ++ [.pushf] ++ Op.intOps ∧
    exec .nop baseF = .next (baseF.advance 1) ∧ exec (.jc 0x10) baseT = .next (baseT.setPc 0x0102) ∧
    exec (.jc 0x10) baseF = .next (baseF.setPc 0x0112) := ⟨by decide, rfl, rfl, rfl⟩

/-- LDB B3 [0x2000] in two states that differ at address 0x4000 alone. -/
theorem test_witness_StepDependsOnlyOnWhatItReads :
    let s := baseT.load 0x0100 [0x00, 0x03, 0x00, 0x20]
    let s' := s.poke 0x4000 0x99
    s.fetch = .ok (.ldbM0 .b3 0x2000) [] ∧ step s = exec (.ldbM0 .b3 0x2000) s ∧ s'.regs = s.regs ∧ s'.pc = s.pc ∧
    s'.sp = s.sp ∧ s'.fl = s.fl ∧ s'.mem.readByte 0x4000 ≠ s.mem.readByte 0x4000 ∧
    ∀ a ∈ fetchAddrs s (Instr.ldbM0 .b3 0x2000).length ++ dataReads intTarget (.ldbM0 .b3 0x2000) s,
      s'.mem.readByte a = s.mem.readByte a := by
  have hf : (baseT.load 0x0100 [0x00, 0x03, 0x00, 0x20]).fetch = .ok (.ldbM0 .b3 0x2000) [] := by decide +kernel
  refine ⟨hf, by simp only [step, hf], rfl, rfl, rfl, rfl, by decide +kernel, ?_⟩
  simp only [fetchAddrs, dataReads, Instr.length, Instr.op, Op.format, Format.length, List.forall_mem_append,
    List.forall_mem_map, List.forall_mem_singleton]
  exact ⟨by decide +kernel, by decide +kernel⟩

/-- A request with I = 0 and one with I = 1, at the default vector table and at fixed vectors. -/
theorem test_witness_RequestsAreTakenOnlyWhenIIsSet :
    baseT.fl.i = false ∧ baseF.fl.i = true ∧ fixedVectors.holes = [] ∧
    platformStep defaultPlatform (some 15) baseF = .next (baseF.enterVector intTarget baseF.pc 16) ∧
    platformStep fixedVectors (some 15) baseF = .next ((baseF.enterVector intTarget baseF.pc 16).setPc 0x0080) :=
  ⟨rfl, rfl, rfl, rfl, rfl⟩

/-- The default platform but for one run of addresses that is no plain memory. -/
def holed (base : Word) (size : Nat) : Platform := { defaultPlatform with holes := [{ base := base, size := size }] }

/-- A hole across the top of the address space: its two ends, and the addresses before and after it. -/
theorem test_hole_wraps :
    ([0xFFFF, 0x0001].all fun a => !isPlain (holed 0xFFFF 3) a) = true ∧
    ([0xFFFE, 0x0002].all fun a => isPlain (holed 0xFFFF 3) a) = true := by decide +kernel

/-- SRB B3 [0x2000] with 0x2000 in a hole of one byte, and with the hole one byte further on. -/
theorem test_witness_AccessesOutsidePlainMemory :
    let s := baseT.load 0x0100 [0x10, 0x03, 0x00, 0x20]
    let addrs := fetchAddrs s (Instr.srbM0 .b3 0x2000).length ++ dataWrites (.srbM0 .b3 0x2000) s ++
      dataReads intTarget (.srbM0 .b3 0x2000) s
    s.fl.i = false ∧ s.fetchWith defaultPlatform.opc = .ok (.srbM0 .b3 0x2000) [] ∧ 0x2000 ∈ addrs ∧
    isPlain (holed 0x2000 1) 0x2000 = false ∧ ∀ a ∈ addrs, isPlain (holed 0x2001 1) a = true :=
  ⟨rfl, by decide +kernel, by decide +kernel, by decide +kernel, List.all_eq_true.mp (by decide +kernel)⟩

/-- A rejected fetch whose two bytes end just before a hole, and one whose second byte is in it. -/
theorem test_witness_RejectedFetchOutsidePlainMemory :
    let s := baseT.load 0x0100 [0x1C, 0x0C]
    s.fetchWith opcodeByte = .reject (.reservedBits 0x1C 0x0C) ∧
    platformStep (holed 0x0102 1) none s = .fault (.illegalInstruction 0x0100 [0x1C, 0x0C]) ∧
    platformStep (holed 0x0101 1) none s = .refused (.outsideMemMap 0x0101) :=
  ⟨by decide +kernel, rfl, rfl⟩

/-- A taken request whose last stack byte, and whose vector's second byte, is in a hole; and one just beside both. -/
theorem test_witness_RequestOutsidePlainMemory :
    baseF.fl.i = true ∧
    platformStep (holed 0x7FFC 1) (some 15) baseF = .refused (.outsideMemMap 0x7FFC) ∧
    platformStep (holed 0xFFFF 1) (some 15) baseF = .refused (.outsideMemMap 0xFFFF) ∧
    platformStep (holed 0x8000 0x7FFE) (some 15) baseF = .next (baseF.enterVector intTarget baseF.pc 16) :=
  ⟨rfl, rfl, rfl, rfl⟩

/-- A run that starts at HALT_PC, with a request presented there; one that gets there by a jump; one that stops at an
illegal byte, and one at a hole; and one that is still going. -/
theorem test_witness_RunsEndOnlyAtHaltPc :
    let p : Platform := { defaultPlatform with haltPC := some 0x3000 }
    let s := baseT.load 0x0100 [0x71, 0x00, 0x30]
    let bad := baseT.poke 0x0100 0xFF
    runOn p [some 0] (baseF.setPc 0x3000) = .ended (baseF.setPc 0x3000) ∧ EndsIn p [none] s (s.setPc 0x3000) ∧
    p.haltPC ≠ some s.pc ∧ platformStep p none s = .next (s.setPc 0x3000) ∧
    p.haltPC ≠ some bad.pc ∧ platformStep p none bad = .fault (.illegalInstruction 0x0100 [0xFF]) ∧
    platformStep (holed 0x0100 1) none s = .refused (.outsideMemMap 0x0100) ∧ runOn p [] s = .running s := by
  refine ⟨rfl, rfl, by decide, rfl, by decide, rfl, rfl, rfl⟩

end Sys2Proof.Machine
end

section
/-! Settles the statements of spec 10_state.md: the overlay of the W registers (R21), and what reads each flag (R32). -/

namespace Sys2Proof.Machine

/-! ## The overlay of W on B (R21) -/

/-- A byte write to the low half of a W register, seen through it. -/
theorem getW_setB_lo (s : State) (j : WReg) (b : Byte) : (s.setB (loHalf j) b).getW j = s.getB (hiHalf j) ++ b := by
  rw [State.getW, getB_setB_same, getB_setB_other _ _ _ _ (loHalf_ne_hiHalf j j).symm]

/-- A byte write to the high half of a W register, seen through it. -/
theorem getW_setB_hi (s : State) (j : WReg) (b : Byte) : (s.setB (hiHalf j) b).getW j = b ++ s.getB (loHalf j) := by
  rw [State.getW, getB_setB_same, getB_setB_other _ _ _ _ (loHalf_ne_hiHalf j j)]

/-- A byte write to the low half of one W register leaves every other W register. -/
theorem getW_setB_lo_other (s : State) (j k : WReg) (b : Byte) (h : k ≠ j) :
    (s.setB (loHalf j) b).getW k = s.getW k :=
  getW_setB_other s _ b k (fun e => h (loHalf_inj k j e)) (loHalf_ne_hiHalf j k).symm

/-- A byte write to the high half of one W register leaves every other W register. -/
theorem getW_setB_hi_other (s : State) (j k : WReg) (b : Byte) (h : k ≠ j) :
    (s.setB (hiHalf j) b).getW k = s.getW k :=
  getW_setB_other s _ b k (loHalf_ne_hiHalf k j) (fun e => h (hiHalf_inj k j e))

/-- Settles O16: the reads and the word write are the model's definitions, the rest are the laws of the register file. -/
theorem wordRegistersOverlayByteRegisters : Obligations.WordRegistersOverlayByteRegisters := by
  unfold Obligations.WordRegistersOverlayByteRegisters
  refine ⟨fun s => ⟨rfl, rfl, rfl, rfl⟩, fun s j v => ?wordWrite, fun s j b => ?byteWriteInWord, fun s x b => ?byteWrite⟩
  case wordWrite => exact ⟨rfl, getW_setW_same s j v, fun k hk => getW_setW_other s j k v hk⟩
  case byteWriteInWord =>
    exact ⟨getW_setB_lo s j b, getW_setB_hi s j b,
      fun k hk => ⟨getW_setB_lo_other s j k b hk, getW_setB_hi_other s j k b hk⟩⟩
  case byteWrite =>
    exact ⟨getB_setB_same s x b, fun y hy => getB_setB_other s x y b hy,
      setB_pc s x b, setB_sp s x b, setB_fl s x b, setB_mem s x b⟩

/-! ## One flag by its name -/

/-- The five flags (R29). -/
inductive FlagName where
  | i | n | v | z | c

/-- The flags with the named one set to `b`. -/
def FlagName.set : FlagName → Flags → Bool → Flags
  | .i => fun f b => { f with i := b }
  | .n => fun f b => { f with n := b }
  | .v => fun f b => { f with v := b }
  | .z => fun f b => { f with z := b }
  | .c => fun f b => { f with c := b }

/-- The opcodes that R32 lists for the flag, but PUSHF and INT, which it lists for all five. -/
def FlagName.readers : FlagName → List Op
  | .i => []
  | .n => [.jn, .jnn, .jge, .jl, .jg, .jle]
  | .v => [.jv, .jnv, .jge, .jl, .jg, .jle]
  | .z => [.jz, .jnz, .ja, .jbe, .jg, .jle]
  | .c => [.adcb, .sbbb, .adcw, .sbbw, .jc, .jnc, .ja, .jbe]

/-- INT's opcode is among the sixteen, whatever its vector field. -/
theorem int_mem_intOps (v : BitVec 4) : Op.int v ∈ Op.intOps := by
  revert v
  decide

/-- Each of the sixteen INT opcodes has a vector field. -/
theorem exists_int_of_mem_intOps (o : Op) (h : o ∈ Op.intOps) : ∃ v : BitVec 4, o = .int v := by
  have e : Op.intOps = (List.range 16).map (fun k => .int (BitVec.ofNat 4 k)) := rfl
  rw [e] at h
  obtain ⟨k, -, rfl⟩ := List.mem_map.mp h
  exact ⟨_, rfl⟩

/-! ## Updates that keep the flags apart

What an instruction that reads no flag makes of the flags: each flag after it depends on that flag before it at most.
So two runs that differ in one flag before differ in that flag after, at most. -/

/-- A change of one flag before the update is a change of that flag after it, at most. -/
def Flagwise (g : Flags → Flags) : Prop :=
  ∀ (φ : FlagName) (f : Flags) (b : Bool), ∃ b' : Bool, g (φ.set f b) = φ.set (g f) b'

section Flagwise
variable {w : Nat}

theorem flagwise_id : Flagwise id := fun _ _ b => ⟨b, rfl⟩

theorem Flagwise.comp {g g' : Flags → Flags} (hg' : Flagwise g') (hg : Flagwise g) : Flagwise (g' ∘ g) := by
  intro φ f b
  obtain ⟨b₁, h₁⟩ := hg φ f b
  obtain ⟨b₂, h₂⟩ := hg' φ (g f) b₁
  exact ⟨b₂, by rw [Function.comp_apply, h₁, h₂, Function.comp_apply]⟩

/-- Setting one flag keeps the others, and forgets what that one was. -/
theorem flagwise_set (ψ : FlagName) (b : Bool) : Flagwise (fun f => ψ.set f b) := by
  intro φ f _
  cases φ <;> cases ψ <;> exact ⟨_, rfl⟩

theorem flagwise_setNZ (r : BitVec w) : Flagwise (fun f => f.setNZ r) :=
  (flagwise_set .z _).comp (flagwise_set .n _)

theorem flagwise_setShift (r : BitVec w) (c : Bool) : Flagwise (fun f => f.setShift r c) :=
  (flagwise_setNZ r).comp (flagwise_set .c c)

/-- A shift by a count of 0 keeps C (R12). -/
theorem flagwise_setShift_keepC (r : BitVec w) : Flagwise (fun f => f.setShift r f.c) := flagwise_setNZ r

theorem flagwise_setNVZC (a : AddRec w) : Flagwise (fun f => f.setNVZC a) :=
  (flagwise_set .c a.c).comp <| (flagwise_set .z a.z).comp <| (flagwise_set .v a.v).comp (flagwise_set .n a.n)

/-- Loading all five flags forgets them all. -/
theorem flagwise_const (f₀ : Flags) : Flagwise (fun _ => f₀) := by
  intro φ _ _
  cases φ <;> exact ⟨_, rfl⟩

end Flagwise

/-- Where `s` goes to `t`, the outcome `o` of the same instruction with the flags `f` instead of those of `s`: it is `t`
in all but the flags, and both runs make the same flagwise update of them. -/
def SameUpToFlags (s t : State) (f : Flags) (o : Outcome) : Prop :=
  ∃ g : Flags → Flags, Flagwise g ∧ t.fl = g s.fl ∧ o = .next (t.setFlags (g f))

/-! ## What of the flags an instruction looks at -/

/-- Two values of the flags that an opcode does not tell apart where it reads them (R32): the carry in, the condition of
a jump (R248 to R261), the whole image; or nothing. -/
def FlagInputsAgree (f f' : Flags) : Op → Prop
  | .adcb | .sbbb | .adcw | .sbbw => f'.c = f.c
  | .jz => Cond.holds .z f' = Cond.holds .z f
  | .jnz => Cond.holds .nz f' = Cond.holds .nz f
  | .jc => Cond.holds .c f' = Cond.holds .c f
  | .jnc => Cond.holds .nc f' = Cond.holds .nc f
  | .jn => Cond.holds .n f' = Cond.holds .n f
  | .jnn => Cond.holds .nn f' = Cond.holds .nn f
  | .jv => Cond.holds .v f' = Cond.holds .v f
  | .jnv => Cond.holds .nv f' = Cond.holds .nv f
  | .ja => Cond.holds .a f' = Cond.holds .a f
  | .jbe => Cond.holds (.be Config.jbeCond) f' = Cond.holds (.be Config.jbeCond) f
  | .jge => Cond.holds .ge f' = Cond.holds .ge f
  | .jl => Cond.holds .l f' = Cond.holds .l f
  | .jg => Cond.holds .g f' = Cond.holds .g f
  | .jle => Cond.holds .le f' = Cond.holds .le f
  | .pushf | .int _ => f' = f
  | _ => True

/-- An opcode that R32 does not list for a flag looks at nothing that depends on it. -/
theorem flagInputsAgree_of_not_listed (φ : FlagName) (o : Op) (f : Flags) (b : Bool)
    (ho : o ∉ φ.readers ++ [.pushf] ++ Op.intOps) : FlagInputsAgree f (φ.set f b) o := by
  obtain ⟨⟨hreaders, hpushf⟩, hint⟩ : (o ∉ φ.readers ∧ o ≠ .pushf) ∧ o ∉ Op.intOps := by
    simpa only [List.mem_append, List.mem_singleton, not_or] using ho
  cases o with
  | pushf => exact absurd rfl hpushf
  | int v => exact absurd (int_mem_intOps v) hint
  | adcb | sbbb | adcw | sbbw | jz | jnz | jc | jnc | jn | jnn | jv | jnv | ja | jbe | jge | jl | jg | jle =>
    cases φ <;> simp [FlagName.readers] at hreaders <;> rfl
  | _ => trivial

/-- A conditional jump goes the same way from flags that agree on its condition. -/
theorem jumpIf_setFlags (s : State) (k : Cond) (d : Byte) (f : Flags) (hk : k.holds f = k.holds s.fl) :
    (s.setFlags f).jumpIf k d = (s.jumpIf k d).setFlags f := by
  simp only [State.jumpIf, setFlags_fl, hk]
  split <;> rfl

theorem jumpIf_fl (s : State) (k : Cond) (d : Byte) : (s.jumpIf k d).fl = s.fl := by
  rcases jumpIf_cases s k d with ⟨-, h⟩ | ⟨-, h⟩ <;> rw [h, setPc_fl]

theorem sameUpToFlags_jumpIf (s : State) (k : Cond) (d : Byte) (f : Flags) (hk : k.holds f = k.holds s.fl) :
    SameUpToFlags s (s.jumpIf k d) f (.next ((s.setFlags f).jumpIf k d)) :=
  ⟨id, flagwise_id, jumpIf_fl s k d, by rw [jumpIf_setFlags s k d f hk, id_eq]⟩

section Shapes
variable (s : State) (f : Flags)

/-! The register-transform shapes, with a result that no flag enters (R160, R200). -/

theorem sameUpToFlags_logicB (x : BReg) (r : Byte) :
    SameUpToFlags s (s.logicB x r) f (.next ((s.setFlags f).logicB x r)) :=
  ⟨_, flagwise_setNZ r, rfl, rfl⟩

theorem sameUpToFlags_logicW (x : WReg) (r : Word) :
    SameUpToFlags s (s.logicW x r) f (.next ((s.setFlags f).logicW x r)) :=
  ⟨_, flagwise_setNZ r, rfl, rfl⟩

theorem sameUpToFlags_arithB (x : BReg) (a : AddRec 8) :
    SameUpToFlags s (s.arithB x a) f (.next ((s.setFlags f).arithB x a)) :=
  ⟨_, flagwise_setNVZC a, rfl, rfl⟩

theorem sameUpToFlags_arithW (x : WReg) (a : AddRec 16) :
    SameUpToFlags s (s.arithW x a) f (.next ((s.setFlags f).arithW x a)) :=
  ⟨_, flagwise_setNVZC a, rfl, rfl⟩

theorem sameUpToFlags_shiftB (x : BReg) (rc : Byte × Bool) :
    SameUpToFlags s (s.shiftB x rc) f (.next ((s.setFlags f).shiftB x rc)) :=
  ⟨_, flagwise_setShift rc.1 rc.2, rfl, rfl⟩

theorem sameUpToFlags_shiftW (x : WReg) (rc : Word × Bool) :
    SameUpToFlags s (s.shiftW x rc) f (.next ((s.setFlags f).shiftW x rc)) :=
  ⟨_, flagwise_setShift rc.1 rc.2, rfl, rfl⟩

/-! The same where C goes in: to the adder, which must see the same C; and to a counted shift, from which it comes out
again as C with a count of 0 and not at all with another (R12). -/

theorem sameUpToFlags_arithB_carry (x : BReg) (sum : Bool → AddRec 8) (hc : f.c = s.fl.c) :
    SameUpToFlags s (s.arithB x (sum s.fl.c)) f (.next ((s.setFlags f).arithB x (sum f.c))) := by
  rw [hc]
  exact sameUpToFlags_arithB s f x _

theorem sameUpToFlags_arithW_carry (x : WReg) (sum : Bool → AddRec 16) (hc : f.c = s.fl.c) :
    SameUpToFlags s (s.arithW x (sum s.fl.c)) f (.next ((s.setFlags f).arithW x (sum f.c))) := by
  rw [hc]
  exact sameUpToFlags_arithW s f x _

theorem sameUpToFlags_shiftB_counted (x : BReg) (k : ShiftKind) (cnt : Nat) (a : Byte) :
    SameUpToFlags s (s.shiftB x (shN k cnt a s.fl.c)) f (.next ((s.setFlags f).shiftB x (shN k cnt a f.c))) := by
  cases cnt with
  | zero => exact ⟨_, flagwise_setShift_keepC a, rfl, rfl⟩
  | succ cnt => exact sameUpToFlags_shiftB s f x (shN k (cnt + 1) a s.fl.c)

theorem sameUpToFlags_shiftW_counted (x : WReg) (k : ShiftKind) (cnt : Nat) (a : Word) :
    SameUpToFlags s (s.shiftW x (shN k cnt a s.fl.c)) f (.next ((s.setFlags f).shiftW x (shN k cnt a f.c))) := by
  cases cnt with
  | zero => exact ⟨_, flagwise_setShift_keepC a, rfl, rfl⟩
  | succ cnt => exact sameUpToFlags_shiftW s f x (shN k (cnt + 1) a s.fl.c)

end Shapes

/-- Flags that an instruction does not tell apart make no difference but a flagwise one, instruction by instruction: the
way each one's class writes the flags (R31) is the update. -/
theorem exec_sameUpToFlags (i : Instr) (s t : State) (f : Flags) (h : exec i s = .next t)
    (hf : FlagInputsAgree s.fl f i.op) : SameUpToFlags s t f (exec i (s.setFlags f)) := by
  cases i with
  | pushf | int _ =>
    obtain rfl : f = s.fl := hf
    exact ⟨_, flagwise_const t.fl, rfl, h⟩
  | adcb x y => cases h; exact sameUpToFlags_arithB_carry s f x (addC (s.getB x) (s.getB y)) hf
  | sbbb x y => cases h; exact sameUpToFlags_arithB_carry s f x (subC (s.getB x) (s.getB y)) hf
  | adcw x y => cases h; exact sameUpToFlags_arithW_carry s f x (addC (s.getW x) (s.getW y)) hf
  | sbbw x y => cases h; exact sameUpToFlags_arithW_carry s f x (subC (s.getW x) (s.getW y)) hf
  | jz | jnz | jc | jnc | jn | jnn | jv | jnv | ja | jbe | jge | jl | jg | jle =>
    cases h; exact sameUpToFlags_jumpIf s _ _ f hf
  | shlb | shrb | sarb => cases h; exact sameUpToFlags_shiftB_counted s f _ _ _ _
  | shlwb | shrwb | sarwb => cases h; exact sameUpToFlags_shiftW_counted s f _ _ _ _
  | shlb1 | shrb1 | sarb1 | rorb | rolb => cases h; exact sameUpToFlags_shiftB s f _ _
  | shlw1 | shrw1 | sarw1 | rorw | rolw => cases h; exact sameUpToFlags_shiftW s f _ _
  | notb | andb | orb | eorb => cases h; exact sameUpToFlags_logicB s f _ _
  | notw | andw | orw | eorw => cases h; exact sameUpToFlags_logicW s f _ _
  | negb | incb | decb | addb | subb => cases h; exact sameUpToFlags_arithB s f _ _
  | negw | incw | decw | addw | subw => cases h; exact sameUpToFlags_arithW s f _ _
  | popf | iret => cases h; exact ⟨_, flagwise_const _, rfl, rfl⟩
  | sti | cli => cases h; exact ⟨_, flagwise_set .i _, rfl, rfl⟩
  | stn | cln => cases h; exact ⟨_, flagwise_set .n _, rfl, rfl⟩
  | stv | clv => cases h; exact ⟨_, flagwise_set .v _, rfl, rfl⟩
  | stz | clz => cases h; exact ⟨_, flagwise_set .z _, rfl, rfl⟩
  | stc | clc => cases h; exact ⟨_, flagwise_set .c _, rfl, rfl⟩
  | _ => cases h; exact ⟨id, flagwise_id, rfl, rfl⟩

/-- An instruction that R32 does not list for a flag does the same to everything else whatever the flag is. -/
theorem exec_ignores_unlisted_flag (φ : FlagName) (i : Instr) (s t : State) (b : Bool)
    (ho : i.op ∉ φ.readers ++ [.pushf] ++ Op.intOps) (h : exec i s = .next t) :
    ∃ b' : Bool, exec i (s.setFlags (φ.set s.fl b)) = .next (t.setFlags (φ.set t.fl b')) := by
  obtain ⟨g, hg, hfl, he⟩ := exec_sameUpToFlags i s t _ h (flagInputsAgree_of_not_listed φ i.op s.fl b ho)
  obtain ⟨b', hb⟩ := hg φ s.fl b
  exact ⟨b', by rw [he, hb, hfl]⟩

/-! ## Every listed opcode reads the flag -/

/-- Some instruction of the opcode, in some state, does something else, and not to the flag alone, when the flag is
changed. -/
def ReadsFlag (φ : FlagName) (o : Op) : Prop :=
  ∃ (i : Instr) (s t t' : State) (b : Bool), i.op = o ∧ exec i s = .next t ∧
    exec i (s.setFlags (φ.set s.fl b)) = .next t' ∧ ∀ b' : Bool, t' ≠ t.setFlags (φ.set t.fl b')

/-- It is enough that the two outcomes differ in something that is no flag. -/
theorem readsFlag_of_view_ne {β : Type} (view : State → β) (blind : ∀ s f, view (s.setFlags f) = view s) {φ : FlagName}
    {i : Instr} {s t t' : State} {b : Bool} (h : exec i s = .next t)
    (h' : exec i (s.setFlags (φ.set s.fl b)) = .next t') (hne : view t' ≠ view t) : ReadsFlag φ i.op :=
  ⟨i, s, t, t', b, rfl, h, h', fun b' e => hne (by rw [e, blind])⟩

/-- The state after reset with C alone set: changing one flag of it changes the condition of every jump that reads the
flag, JA's and JBE's included. -/
def carryOnly : State := State.reset.setFlags ((FlagName.c).set State.reset.fl true)

/-- A conditional jump whose condition changes with the flag goes elsewhere. -/
theorem readsFlag_jump {φ : FlagName} (k : Cond) (i : Instr) (b : Bool)
    (hk : k.holds (φ.set carryOnly.fl b) ≠ k.holds carryOnly.fl := by decide)
    (hi : ∀ s, exec i s = .next (s.jumpIf k 0x10) := by exact fun _ => rfl) : ReadsFlag φ i.op := by
  refine readsFlag_of_view_ne State.pc (fun _ _ => rfl) (hi carryOnly) (hi (carryOnly.setFlags (φ.set _ b))) ?_
  have taken_ne_next : carryOnly.relTarget 0x10 ≠ carryOnly.npc 2 := by decide
  rcases jumpIf_cases carryOnly k 0x10 with ⟨h, e⟩ | ⟨h, e⟩ <;>
    rcases jumpIf_cases (carryOnly.setFlags (φ.set carryOnly.fl b)) k 0x10 with ⟨h', e'⟩ | ⟨h', e'⟩ <;>
    rw [e, e']
  · exact absurd (h'.trans h.symm) hk
  · exact taken_ne_next.symm
  · exact taken_ne_next
  · exact absurd (h'.trans h.symm) hk

/-- An operation with carry in, from the zero registers with C set and with C clear, gives different results. -/
theorem readsFlag_carry {i : Instr} {t t' : State} (h : exec i carryOnly = .next t)
    (h' : exec i (carryOnly.setFlags ((FlagName.c).set carryOnly.fl false)) = .next t') (hne : t'.regs ≠ t.regs) :
    ReadsFlag .c i.op :=
  readsFlag_of_view_ne State.regs (fun _ _ => rfl) h h' hne

/-- Different flags have different images (R30). -/
theorem image_injective : Function.Injective Flags.image := Function.LeftInverse.injective ofImage_image

/-- What leaves the flag image on top of the stack reads every flag. -/
theorem readsFlag_of_saves_image (φ : FlagName) {i : Instr}
    (hi : ∀ s, ∃ t, exec i s = .next t ∧ t.top16 = s.fl.image) : ReadsFlag φ i.op := by
  obtain ⟨t, h, htop⟩ := hi State.reset
  obtain ⟨t', h', htop'⟩ := hi (State.reset.setFlags (φ.set State.reset.fl true))
  refine readsFlag_of_view_ne State.top16 (fun _ _ => rfl) h h' ?_
  rw [htop, htop']
  refine image_injective.ne ?_
  cases φ <;> decide

/-- PUSHF reads every flag (R141). -/
theorem readsFlag_pushf (φ : FlagName) : ReadsFlag φ .pushf :=
  readsFlag_of_saves_image (i := .pushf) φ fun s => ⟨_, rfl, top16_push16 s s.fl.image⟩

/-- INT's entry reads every flag (R247, R302). -/
theorem readsFlag_int (φ : FlagName) (v : BitVec 4) : ReadsFlag φ (.int v) := by
  have hop : (Instr.int (v.toNat + 1)).op = .int v := by simp [Instr.op]
  rw [← hop]
  refine readsFlag_of_saves_image φ fun s => ⟨_, if_pos ⟨by omega, by omega⟩, ?_⟩
  exact top16_push16 (s.push16 (s.npc 1)) s.fl.image

/-- What each flag's listed opcodes do with it, from the same state: the carry in changes the result, a condition that
changes sends the jump elsewhere. -/
theorem readsFlag_of_mem_readers (φ : FlagName) : ∀ o ∈ φ.readers, ReadsFlag φ o := by
  cases φ <;> simp only [FlagName.readers, List.forall_mem_cons]
  case i => exact List.forall_mem_nil _
  case n =>
    exact ⟨readsFlag_jump .n (.jn 0x10) true, readsFlag_jump .nn (.jnn 0x10) true,
      readsFlag_jump .ge (.jge 0x10) true, readsFlag_jump .l (.jl 0x10) true,
      readsFlag_jump .g (.jg 0x10) true, readsFlag_jump .le (.jle 0x10) true, List.forall_mem_nil _⟩
  case v =>
    exact ⟨readsFlag_jump .v (.jv 0x10) true, readsFlag_jump .nv (.jnv 0x10) true,
      readsFlag_jump .ge (.jge 0x10) true, readsFlag_jump .l (.jl 0x10) true,
      readsFlag_jump .g (.jg 0x10) true, readsFlag_jump .le (.jle 0x10) true, List.forall_mem_nil _⟩
  case z =>
    exact ⟨readsFlag_jump .z (.jz 0x10) true, readsFlag_jump .nz (.jnz 0x10) true,
      readsFlag_jump .a (.ja 0x10) true, readsFlag_jump (.be Config.jbeCond) (.jbe 0x10) true,
      readsFlag_jump .g (.jg 0x10) true, readsFlag_jump .le (.jle 0x10) true, List.forall_mem_nil _⟩
  case c =>
    exact ⟨readsFlag_carry (i := .adcb .b0 .b0) rfl rfl (by decide),
      readsFlag_carry (i := .sbbb .b0 .b0) rfl rfl (by decide),
      readsFlag_carry (i := .adcw .w0 .w0) rfl rfl (by decide),
      readsFlag_carry (i := .sbbw .w0 .w0) rfl rfl (by decide), readsFlag_jump .c (.jc 0x10) false,
      readsFlag_jump .nc (.jnc 0x10) false, readsFlag_jump .a (.ja 0x10) false,
      readsFlag_jump (.be Config.jbeCond) (.jbe 0x10) false, List.forall_mem_nil _⟩

/-- Every opcode that R32 lists for a flag reads it. -/
theorem readsFlag_of_listed (φ : FlagName) (o : Op) (ho : o ∈ φ.readers ++ [.pushf] ++ Op.intOps) : ReadsFlag φ o := by
  rcases List.mem_append.mp ho with ho | hint
  · rcases List.mem_append.mp ho with hreaders | hpushf
    · exact readsFlag_of_mem_readers φ o hreaders
    · obtain rfl := List.mem_singleton.mp hpushf
      exact readsFlag_pushf φ
  · obtain ⟨v, rfl⟩ := exists_int_of_mem_intOps o hint
    exact readsFlag_int φ v

/-- Settles O54: unlisted instructions update the flags flagwise and look at nothing that depends on the flag; each
listed opcode has its witness. -/
theorem onlyListedInstructionsReadEachFlag : Obligations.OnlyListedInstructionsReadEachFlag := by
  unfold Obligations.OnlyListedInstructionsReadEachFlag
  intro set readers hmem
  obtain ⟨φ, rfl, rfl⟩ : ∃ φ : FlagName, set = φ.set ∧ readers = φ.readers := by
    simp only [List.mem_cons, List.not_mem_nil, or_false, Prod.mk.injEq] at hmem
    rcases hmem with h | h | h | h | h
    exacts [⟨.c, h⟩, ⟨.z, h⟩, ⟨.n, h⟩, ⟨.v, h⟩, ⟨.i, h⟩]
  exact ⟨exec_ignores_unlisted_flag φ, readsFlag_of_listed φ⟩

end Sys2Proof.Machine
end

section
/-! Settles the statements of spec 30_encoding.md: what a fetch depends on, and what its first byte fixes (R94). -/

namespace Sys2Proof.Machine

/-! ## The encoder -/

/-- The first byte of an instruction is its opcode byte (R80). -/
theorem head?_encodeWith (opc : Op → Byte) (i : Instr) : (encodeWith opc i).head? = some (opc i.op) := by
  unfold encodeWith
  cases i.op.format <;> rfl

/-- Each format writes as many bytes as R95 gives it. -/
theorem length_encodeWith (opc : Op → Byte) (i : Instr) : (encodeWith opc i).length = i.length := by
  unfold encodeWith Instr.length
  cases i.op.format <;> rfl

/-! ## The decoder -/

/-- The operands do not change the opcode they are given. -/
@[simp] theorem op_instr (o : Op) (r : Byte) (w : Word) : (o.instr r w).op = o := by
  cases o with
  | ldb m | ldw m | srb m | srw m => cases m <;> rfl
  | int v => simp [Op.instr, Instr.op]
  | _ => rfl

/-- Operands that decode give the opcode an instruction of its own, from as many bytes as its format has after the
opcode byte. -/
theorem decodeOperands_ok {o : Op} {b0 : Byte} {bs rest : List Byte} {i : Instr}
    (h : decodeOperands o b0 bs = .ok i rest) :
    ∃ (r : Byte) (w : Word) (taken : List Byte),
      i = o.instr r w ∧ bs = taken ++ rest ∧ taken.length + 1 = o.format.length := by
  unfold decodeOperands at h
  cases hf : o.format with
  | op | opv =>
    simp only [hf] at h
    cases h
    exact ⟨_, _, [], rfl, rfl, rfl⟩
  | opS8 =>
    simp only [hf] at h
    split at h <;> cases h
    exact ⟨_, _, [_], rfl, rfl, rfl⟩
  | opI16 =>
    simp only [hf] at h
    split at h <;> cases h
    exact ⟨_, _, [_, _], rfl, rfl, rfl⟩
  | opR =>
    simp only [hf] at h
    split at h
    · split at h <;> cases h
      exact ⟨_, _, [_], rfl, rfl, rfl⟩
    · cases h
  | opRI8 =>
    simp only [hf] at h
    split at h
    · split at h
      · split at h <;> cases h
        exact ⟨_, _, [_, _], rfl, rfl, rfl⟩
      · cases h
    · cases h
  | opRI16 =>
    simp only [hf] at h
    split at h
    · split at h
      · split at h <;> cases h
        exact ⟨_, _, [_, _, _], rfl, rfl, rfl⟩
      · cases h
    · cases h

/-- Bytes that decode hold an opcode byte first, the one of the instruction, and the instruction takes its length of
them. -/
theorem decodeWith_cons_ok {opc : Op → Byte} {b0 : Byte} {bs rest : List Byte} {i : Instr}
    (h : decodeWith opc (b0 :: bs) = .ok i rest) :
    opOfByte opc b0 = some i.op ∧ i.length + rest.length = bs.length + 1 := by
  cases ho : opOfByte opc b0 with
  | none => simp [decodeWith, ho] at h
  | some o =>
    simp only [decodeWith, ho] at h
    obtain ⟨r, w, taken, rfl, rfl, htaken⟩ := decodeOperands_ok h
    rw [Instr.length, op_instr, List.length_append]
    exact ⟨rfl, by omega⟩

/-! ## The fetch -/

/-- The fetch window is the bytes at PC, PC + 1, PC + 2 and PC + 3, mod 2^16 (R58). -/
theorem fetchWindow_eq_map (s : State) :
    s.fetchWindow = (List.range 4).map fun k => s.mem.readByte (s.pc + BitVec.ofNat 16 k) := by
  simp [State.fetchWindow, List.range_succ]

/-- States with the same four bytes from their PCs on fetch the same. -/
theorem fetchWith_congr (opc : Op → Byte) {s s' : State}
    (h : ∀ k < 4, s'.mem.readByte (s'.pc + BitVec.ofNat 16 k) = s.mem.readByte (s.pc + BitVec.ofNat 16 k)) :
    s'.fetchWith opc = s.fetchWith opc := by
  have window : s'.fetchWindow = s.fetchWindow := by
    rw [fetchWindow_eq_map, fetchWindow_eq_map]
    exact List.map_congr_left fun k hk => h k (List.mem_range.mp hk)
  rw [State.fetchWith, State.fetchWith, window]

/-- A fetch that answers an instruction found the opcode of the byte at PC, and leaves of the four bytes what the
instruction does not take. -/
theorem fetchWith_ok {opc : Op → Byte} {s : State} {i : Instr} {rest : List Byte} (h : s.fetchWith opc = .ok i rest) :
    opOfByte opc (s.mem.readByte s.pc) = some i.op ∧ i.length + rest.length = 4 :=
  decodeWith_cons_ok h

/-- Settles O4: the window is all that the fetch reads, its first byte gives the opcode, and the opcode's format the
length. -/
theorem fetchDependsOnItsBytesAndTheFirstFixesTheLength :
    Obligations.FetchDependsOnItsBytesAndTheFirstFixesTheLength := by
  unfold Obligations.FetchDependsOnItsBytesAndTheFirstFixesTheLength
  refine fun opc => ⟨fun s s' => fetchWith_congr opc, head?_encodeWith opc, fun s s' i i' rest rest' hs hs' hbyte => ?_⟩
  obtain ⟨hop, hrest⟩ := fetchWith_ok hs
  obtain ⟨hop', hrest'⟩ := fetchWith_ok hs'
  have sameOp : i'.op = i.op := by
    rw [hbyte, hop] at hop'
    exact (Option.some.inj hop').symm
  have sameLength : i'.length = i.length := by rw [Instr.length, Instr.length, sameOp]
  exact ⟨sameOp, by omega, by rw [length_encodeWith, length_encodeWith, sameLength]⟩

end Sys2Proof.Machine
end

section
/-! Settles the statements of spec 30_encoding.md on the encoder, the decoder and the fetch: decoding and encoding are
inverse to each other, and where a step faults. -/

namespace Sys2Proof.Machine

/-! ## The fields of a register byte (R22, R82) -/

@[simp] theorem bRegCode_ofCode (k : BitVec 3) : (BReg.ofCode k).code = k := by
  revert k; decide

@[simp] theorem wRegCode_ofCode (k : BitVec 2) : (WReg.ofCode k).code = k := by
  revert k; decide

/-! What each layout's fields are in the byte that the encoder writes. -/

section Fields
variable (x y : BReg) (v w : WReg) (u : WReg)

@[simp] theorem fieldXB_rb : fieldXB (0#5 ++ x.code) = x := by cases x <;> rfl
@[simp] theorem fieldXW_rw : fieldXW (0#6 ++ w.code) = w := by cases w <;> rfl
@[simp] theorem fieldXB_rbb : fieldXB (0#1 ++ y.code ++ 0#1 ++ x.code) = x := by cases x <;> cases y <;> rfl
@[simp] theorem fieldYB_rbb : fieldYB (0#1 ++ y.code ++ 0#1 ++ x.code) = y := by cases x <;> cases y <;> rfl
@[simp] theorem fieldXW_rwb : fieldXW (0#1 ++ y.code ++ 0#2 ++ w.code) = w := by cases w <;> cases y <;> rfl
@[simp] theorem fieldYB_rwb : fieldYB (0#1 ++ y.code ++ 0#2 ++ w.code) = y := by cases w <;> cases y <;> rfl
@[simp] theorem fieldXW_rww : fieldXW (0#2 ++ v.code ++ 0#2 ++ w.code) = w := by cases w <;> cases v <;> rfl
@[simp] theorem fieldW54_rww : fieldW54 (0#2 ++ v.code ++ 0#2 ++ w.code) = v := by cases w <;> cases v <;> rfl
@[simp] theorem fieldXB_tb1 : fieldXB (0#2 ++ v.code ++ 0#1 ++ x.code) = x := by cases x <;> cases v <;> rfl
@[simp] theorem fieldW54_tb1 : fieldW54 (0#2 ++ v.code ++ 0#1 ++ x.code) = v := by cases x <;> cases v <;> rfl
@[simp] theorem fieldXB_tb2 : fieldXB (u.code ++ v.code ++ 0#1 ++ x.code) = x := by
  cases x <;> cases v <;> cases u <;> rfl
@[simp] theorem fieldW54_tb2 : fieldW54 (u.code ++ v.code ++ 0#1 ++ x.code) = v := by
  cases x <;> cases v <;> cases u <;> rfl
@[simp] theorem fieldW76_tb2 : fieldW76 (u.code ++ v.code ++ 0#1 ++ x.code) = u := by
  cases x <;> cases v <;> cases u <;> rfl
@[simp] theorem fieldXW_tw2 : fieldXW (u.code ++ v.code ++ 0#2 ++ w.code) = w := by
  cases w <;> cases v <;> cases u <;> rfl
@[simp] theorem fieldW54_tw2 : fieldW54 (u.code ++ v.code ++ 0#2 ++ w.code) = v := by
  cases w <;> cases v <;> cases u <;> rfl
@[simp] theorem fieldW76_tw2 : fieldW76 (u.code ++ v.code ++ 0#2 ++ w.code) = u := by
  cases w <;> cases v <;> cases u <;> rfl

/-! That byte has no reserved bit set (R92). -/

theorem reserved_rb : (0#5 ++ x.code) &&& Layout.rb.reserved = 0 := by cases x <;> rfl
theorem reserved_rw : (0#6 ++ w.code) &&& Layout.rw.reserved = 0 := by cases w <;> rfl
theorem reserved_rbb : (0#1 ++ y.code ++ 0#1 ++ x.code) &&& Layout.rbb.reserved = 0 := by
  cases x <;> cases y <;> rfl
theorem reserved_rww : (0#2 ++ v.code ++ 0#2 ++ w.code) &&& Layout.rww.reserved = 0 := by
  cases v <;> cases w <;> rfl
theorem reserved_rwb : (0#1 ++ y.code ++ 0#2 ++ w.code) &&& Layout.rwb.reserved = 0 := by
  cases y <;> cases w <;> rfl
theorem reserved_tb1 : (0#2 ++ v.code ++ 0#1 ++ x.code) &&& Layout.tb1.reserved = 0 := by
  cases v <;> cases x <;> rfl
theorem reserved_tb2 : (u.code ++ v.code ++ 0#1 ++ x.code) &&& Layout.tb2.reserved = 0 := by
  cases u <;> cases v <;> cases x <;> rfl
theorem reserved_tw2 : (u.code ++ v.code ++ 0#2 ++ w.code) &&& Layout.tw2.reserved = 0 := by
  cases u <;> cases v <;> cases w <;> rfl

end Fields

/-! A byte with no reserved bit set is the one with its fields in their places. -/

section Bytes
variable {r : Byte}

theorem byte_rb (h : r &&& Layout.rb.reserved = 0) : 0#5 ++ (fieldXB r).code = r := by
  rw [fieldXB, bRegCode_ofCode]; revert r; decide
theorem byte_rw (h : r &&& Layout.rw.reserved = 0) : 0#6 ++ (fieldXW r).code = r := by
  rw [fieldXW, wRegCode_ofCode]; revert r; decide
theorem byte_rbb (h : r &&& Layout.rbb.reserved = 0) : 0#1 ++ (fieldYB r).code ++ 0#1 ++ (fieldXB r).code = r := by
  rw [fieldXB, fieldYB, bRegCode_ofCode, bRegCode_ofCode]; revert r; decide
theorem byte_rww (h : r &&& Layout.rww.reserved = 0) : 0#2 ++ (fieldW54 r).code ++ 0#2 ++ (fieldXW r).code = r := by
  rw [fieldXW, fieldW54, wRegCode_ofCode, wRegCode_ofCode]; revert r; decide
theorem byte_rwb (h : r &&& Layout.rwb.reserved = 0) : 0#1 ++ (fieldYB r).code ++ 0#2 ++ (fieldXW r).code = r := by
  rw [fieldXW, fieldYB, bRegCode_ofCode, wRegCode_ofCode]; revert r; decide
theorem byte_tb1 (h : r &&& Layout.tb1.reserved = 0) : 0#2 ++ (fieldW54 r).code ++ 0#1 ++ (fieldXB r).code = r := by
  rw [fieldXB, fieldW54, bRegCode_ofCode, wRegCode_ofCode]; revert r; decide
theorem byte_tb2 (h : r &&& Layout.tb2.reserved = 0) :
    (fieldW76 r).code ++ (fieldW54 r).code ++ 0#1 ++ (fieldXB r).code = r := by
  rw [fieldXB, fieldW54, fieldW76, bRegCode_ofCode, wRegCode_ofCode, wRegCode_ofCode]; revert r; decide
theorem byte_tw2 (h : r &&& Layout.tw2.reserved = 0) :
    (fieldW76 r).code ++ (fieldW54 r).code ++ 0#2 ++ (fieldXW r).code = r := by
  rw [fieldXW, fieldW54, fieldW76, wRegCode_ofCode, wRegCode_ofCode, wRegCode_ofCode]; revert r; decide

end Bytes

/-! An immediate and its two data bytes (R84). -/

@[simp] theorem immLow_immWord (lo hi : Byte) : immLow (immWord lo hi) = lo := low_of_append hi lo

@[simp] theorem immHigh_immWord (lo hi : Byte) : immHigh (immWord lo hi) = hi := high_of_append hi lo

@[simp] theorem immWord_immLow_immHigh (w : Word) : immWord (immLow w) (immHigh w) = w := word_split w

/-- An instruction is the one its opcode gives with its own register byte and data. -/
theorem instr_regByte_data (i : Instr) (h : i.wf = true) : i.op.instr i.regByte i.data = i := by
  cases i with
  | int n =>
    obtain ⟨h1, h16⟩ : 1 ≤ n ∧ n ≤ 16 := by simpa [Instr.wf] using h
    simp only [Instr.op, Op.instr, BitVec.toNat_ofNat, Instr.int.injEq]
    omega
  | _ => simp [Instr.op, Op.instr, Instr.regByte, Instr.data]

/-- No instruction sets a reserved bit of its register byte (R92). -/
theorem regByte_reserved (i : Instr) : i.regByte &&& i.op.layout.reserved = 0 := by
  cases i with
  | ldbM0 | srbM0 | movbi | notb | negb | incb | decb | shlb1 | shrb1 | sarb1 | rorb | rolb => exact reserved_rb _
  | ldwM0 | srwM0 | push | pop | movwi | movsw | movws | notw | negw | incw | decw | shlw1 | shrw1 | sarw1 | rorw | rolw
  | jX | cX | lea => exact reserved_rw _
  | movb | andb | orb | eorb | addb | subb | adcb | sbbb | shlb | shrb | sarb | swpb => exact reserved_rbb _ _
  | movw | andw | orw | eorw | addw | subw | adcw | sbbw | swpw => exact reserved_rww _ _
  | shlwb | shrwb | sarwb => exact reserved_rwb _ _
  | ldbM1 | srbM1 | ldbM2 | srbM2 | ldbM3 | srbM3 => exact reserved_tb1 _ _
  | ldwM1 | srwM1 | ldwM2 | srwM2 | ldwM3 | srwM3 => exact reserved_rww _ _
  | ldbM4 | srbM4 => exact reserved_tb2 _ _ _
  | ldwM4 | srwM4 => exact reserved_tw2 _ _ _
  | _ => exact BitVec.and_zero

/-! ## The operands of an instruction as a register byte and data

Between an instruction and its bytes stand its opcode, its register byte `r` and its data `w`. A format that has no
register byte, no data or 8-bit data leaves the missing bits of `r` and `w` 0. -/

/-- The bytes after the opcode byte (R80). -/
def operandBytes (r : Byte) (w : Word) : Format → List Byte
  | .op | .opv => []
  | .opR => [r]
  | .opS8 => [immLow w]
  | .opI16 => [immLow w, immHigh w]
  | .opRI8 => [r, immLow w]
  | .opRI16 => [r, immLow w, immHigh w]

/-- What a format has no place for is 0. -/
def OperandsFit (r : Byte) (w : Word) : Format → Prop
  | .op | .opv => r = 0 ∧ w = 0
  | .opR => w = 0
  | .opS8 => r = 0 ∧ w = immWord (immLow w) 0
  | .opI16 => r = 0
  | .opRI8 => w = immWord (immLow w) 0
  | .opRI16 => True

theorem encodeWith_eq (opc : Op → Byte) (i : Instr) :
    encodeWith opc i = opc i.op :: operandBytes i.regByte i.data i.op.format := by
  unfold encodeWith
  cases i.op.format <;> rfl

/-- The encoder's register byte and data fit the format of the opcode. -/
theorem operandsFit_encoder (i : Instr) : OperandsFit i.regByte i.data i.op.format := by
  cases i with
  | ldbM0 | ldwM0 | srbM0 | srwM0 | ldbM2 | ldwM2 | srbM2 | srwM2 | movwi | lea => exact trivial
  | jA | cA => exact rfl
  | movbi => exact congrArg (immWord · 0) (immLow_immWord _ _).symm
  | jR | cR | jz | jnz | jc | jnc | jn | jnn | jv | jnv | ja | jbe | jge | jl | jg | jle =>
    exact ⟨rfl, congrArg (immWord · 0) (immLow_immWord _ _).symm⟩
  | pushf | popf | int | ret | iret | nop | sti | stc | stz | stv | stn | cli | clc | clz | clv | cln =>
    exact ⟨rfl, rfl⟩
  | _ => exact rfl

/-- The instruction of an opcode, a register byte with no reserved bit set and data that fit has that register byte. -/
theorem regByte_instr (o : Op) (r : Byte) (w : Word) (hr : r &&& o.layout.reserved = 0)
    (hfit : OperandsFit r w o.format) : (o.instr r w).regByte = r := by
  cases o with
  | ldb m | srb m =>
    cases m with
    | m0 => exact byte_rb hr
    | m1 | m2 | m3 => exact byte_tb1 hr
    | m4 => exact byte_tb2 hr
  | ldw m | srw m =>
    cases m with
    | m0 => exact byte_rw hr
    | m1 | m2 | m3 => exact byte_rww hr
    | m4 => exact byte_tw2 hr
  | movbi | notb | negb | incb | decb | shlb1 | shrb1 | sarb1 | rorb | rolb => exact byte_rb hr
  | push | pop | movwi | movsw | movws | notw | negw | incw | decw | shlw1 | shrw1 | sarw1 | rorw | rolw | jX | cX
  | lea => exact byte_rw hr
  | movb | andb | orb | eorb | addb | subb | adcb | sbbb | shlb | shrb | sarb | swpb => exact byte_rbb hr
  | movw | andw | orw | eorw | addw | subw | adcw | sbbw | swpw => exact byte_rww hr
  | shlwb | shrwb | sarwb => exact byte_rwb hr
  | jA | cA => exact hfit.symm
  | _ => exact hfit.1.symm

/-- And it has that data. -/
theorem data_instr (o : Op) (r : Byte) (w : Word) (hfit : OperandsFit r w o.format) : (o.instr r w).data = w := by
  cases o with
  | ldb m | srb m | ldw m | srw m =>
    cases m with
    | m0 | m2 => rfl
    | m1 | m3 | m4 => exact hfit.symm
  | movwi | lea | jA | cA => rfl
  | movbi => exact hfit.symm
  | jR | cR | jz | jnz | jc | jnc | jn | jnn | jv | jnv | ja | jbe | jge | jl | jg | jle => exact hfit.2.symm
  | pushf | popf | int | ret | iret | nop | sti | stc | stz | stv | stn | cli | clc | clz | clv | cln =>
    exact hfit.2.symm
  | _ => exact hfit.symm

/-- Every instruction an opcode stands for is well formed: INT's field gives 1 to 16 (R84). -/
theorem wf_instr (o : Op) (r : Byte) (w : Word) : (o.instr r w).wf = true := by
  cases o with
  | ldb m | ldw m | srb m | srw m => cases m <;> rfl
  | int v => simp only [Op.instr, Instr.wf, Bool.and_eq_true, decide_eq_true_eq]; omega
  | _ => rfl

/-! ## The decoder -/

theorem decodeOperands_operandBytes (o : Op) (b0 r : Byte) (w : Word) (rest : List Byte)
    (hr : r &&& o.layout.reserved = 0) (hfit : OperandsFit r w o.format) :
    decodeOperands o b0 (operandBytes r w o.format ++ rest) = .ok (o.instr r w) rest := by
  unfold decodeOperands
  cases hf : o.format with
  | op | opv =>
    rw [hf] at hfit
    obtain ⟨rfl, rfl⟩ := hfit
    rfl
  | opR =>
    rw [hf] at hfit
    obtain rfl : w = 0 := hfit
    exact if_pos hr
  | opS8 =>
    rw [hf] at hfit
    obtain ⟨rfl, hw⟩ := hfit
    exact congrArg (fun w => Decoded.ok (o.instr 0 w) rest) hw.symm
  | opI16 =>
    rw [hf] at hfit
    obtain rfl : r = 0 := hfit
    simp [operandBytes]
  | opRI8 =>
    rw [hf] at hfit
    have hw : w = immWord (immLow w) 0 := hfit
    exact (if_pos hr).trans (congrArg (fun w => Decoded.ok (o.instr r w) rest) hw.symm)
  | opRI16 => simp [operandBytes, hr]

/-- Operands that decode are a register byte and data that fit, and no bit of them is dropped. -/
theorem operandBytes_of_decodeOperands {o : Op} {b0 : Byte} {bs rest : List Byte} {i : Instr}
    (h : decodeOperands o b0 bs = .ok i rest) :
    ∃ (r : Byte) (w : Word), r &&& o.layout.reserved = 0 ∧ OperandsFit r w o.format ∧ i = o.instr r w ∧
      operandBytes r w o.format ++ rest = bs := by
  unfold decodeOperands at h
  cases hf : o.format with
  | op | opv =>
    simp only [hf] at h
    cases h
    exact ⟨0, 0, BitVec.zero_and, ⟨rfl, rfl⟩, rfl, rfl⟩
  | opS8 =>
    simp only [hf] at h
    split at h <;> cases h
    exact ⟨0, _, BitVec.zero_and, ⟨rfl, by rw [immLow_immWord]⟩, rfl, by simp [operandBytes]⟩
  | opI16 =>
    simp only [hf] at h
    split at h <;> cases h
    exact ⟨0, _, BitVec.zero_and, rfl, rfl, by simp [operandBytes]⟩
  | opR =>
    simp only [hf] at h
    split at h
    · split at h <;> cases h
      exact ⟨_, 0, ‹_›, rfl, rfl, rfl⟩
    · cases h
  | opRI8 =>
    simp only [hf] at h
    split at h
    · split at h
      · split at h <;> cases h
        exact ⟨_, _, ‹_›, by rw [OperandsFit, immLow_immWord], rfl, by simp [operandBytes]⟩
      · cases h
    · cases h
  | opRI16 =>
    simp only [hf] at h
    split at h
    · split at h
      · split at h <;> cases h
        exact ⟨_, _, ‹_›, trivial, rfl, by simp [operandBytes]⟩
      · cases h
    · cases h

/-- `Op.all` lists every opcode (R3). -/
theorem mem_op_all (o : Op) : o ∈ Op.all := by
  cases o with
  | ldb m | ldw m | srb m | srw m => cases m <;> decide
  | int v => revert v; decide
  | _ => decide

theorem opc_of_opOfByte {opc : Op → Byte} {b : Byte} {o : Op} (h : opOfByte opc b = some o) : opc o = b := by
  simpa using List.find?_some h

/-- Where the bytes are distinct, an opcode byte gives its opcode back. -/
theorem opOfByte_opc {opc : Op → Byte} (distinct : ∀ o o', opc o = opc o' → o = o') (o : Op) :
    opOfByte opc (opc o) = some o := by
  obtain ⟨o', h⟩ : ∃ o', opOfByte opc (opc o) = some o' := by
    rw [← Option.isSome_iff_exists, opOfByte, List.find?_isSome]
    exact ⟨o, mem_op_all o, decide_eq_true rfl⟩
  rw [h, distinct o' o (opc_of_opOfByte h)]

/-- Settles O1: the opcode byte gives the opcode back, the operand bytes the operands. -/
theorem encodingDecodesToItself : Obligations.EncodingDecodesToItself := by
  unfold Obligations.EncodingDecodesToItself
  intro opc distinct i rest hwf
  rw [encodeWith_eq, List.cons_append, decodeWith, opOfByte_opc distinct]
  have operands := decodeOperands_operandBytes i.op (opc i.op) i.regByte i.data rest (regByte_reserved i)
    (operandsFit_encoder i)
  rwa [instr_regByte_data i hwf] at operands

/-- Settles O2: what decodes is an opcode byte and operands that fit, from which the encoder writes the same bytes. -/
theorem decodedBytesAreTheEncoding : Obligations.DecodedBytesAreTheEncoding := by
  unfold Obligations.DecodedBytesAreTheEncoding
  intro opc bs rest i h
  cases bs with
  | nil => cases h
  | cons b0 bs =>
    cases ho : opOfByte opc b0 with
    | none => simp [decodeWith, ho] at h
    | some o =>
      simp only [decodeWith, ho] at h
      obtain ⟨r, w, hr, hfit, rfl, hbs⟩ := operandBytes_of_decodeOperands h
      rw [encodeWith_eq, op_instr, regByte_instr o r w hr hfit, data_instr o r w hfit, opc_of_opOfByte ho,
        List.cons_append, hbs]
      exact ⟨wf_instr o r w, rfl⟩

/-- The bytes a decoding takes are as many as the encoding of the instruction has. -/
theorem decodeWith_cons_taken {opc : Op → Byte} {b0 : Byte} {bs rest : List Byte} {i : Instr}
    (h : decodeWith opc (b0 :: bs) = .ok i rest) : (b0 :: bs).length - rest.length = i.op.format.length := by
  obtain ⟨-, hlength⟩ := decodeWith_cons_ok h
  rw [List.length_cons, ← hlength, Nat.add_sub_cancel, Instr.length]

/-- An instruction whose opcode is on a list of opcodes of one format has that format and its length. -/
theorem format_and_length_of_listed (opc : Op → Byte) (i : Instr) (f : Format) (os : List Op)
    (hos : ∀ o ∈ os, o.format = f) (hi : i.op ∈ os) : i.op.format = f ∧ (encodeWith opc i).length = f.length :=
  ⟨hos _ hi, by rw [length_encodeWith, Instr.length, hos _ hi]⟩

/-- Settles O3: the format of each opcode is read off the table, and the opcode byte gives the opcode. -/
theorem lengthIsAFunctionOfTheOpcodeByte : Obligations.LengthIsAFunctionOfTheOpcodeByte := by
  unfold Obligations.LengthIsAFunctionOfTheOpcodeByte
  refine ⟨fun opc i => ⟨?op, ?opv, ?opR, ?opS8, ?opI16, ?opRI8, ?opRI16⟩, fun opc b bs bs' rest rest' i i' h h' => ?_⟩
  case op => exact format_and_length_of_listed opc i .op _ (by decide)
  case opv => exact format_and_length_of_listed opc i .opv _ (by decide)
  case opR => exact format_and_length_of_listed opc i .opR _ (by decide)
  case opS8 => exact format_and_length_of_listed opc i .opS8 _ (by decide)
  case opI16 => exact format_and_length_of_listed opc i .opI16 _ (by decide)
  case opRI8 =>
    exact fun hi => format_and_length_of_listed opc i .opRI8 [.movbi] (by decide) (List.mem_singleton.mpr hi)
  case opRI16 => exact format_and_length_of_listed opc i .opRI16 _ (by decide)
  obtain ⟨hop, -⟩ := decodeWith_cons_ok h
  obtain ⟨hop', -⟩ := decodeWith_cons_ok h'
  have sameOp : i.op = i'.op := Option.some.inj (hop.symm.trans hop')
  rw [decodeWith_cons_taken h, decodeWith_cons_taken h', sameOp, length_encodeWith, Instr.length, sameOp]
  exact ⟨rfl, rfl⟩

/-! ## The default map (R90, R91) -/

/-- Every default opcode byte is found at its own opcode, so no two opcodes share one. -/
theorem opOfByte_opcodeByte (o : Op) : opOfByte opcodeByte (opcodeByte o) = some o := by
  have all : ∀ o ∈ Op.all, opOfByte opcodeByte (opcodeByte o) = some o := by decide +kernel
  exact all o (mem_op_all o)

theorem opcodeByte_injective (o o' : Op) (h : opcodeByte o = opcodeByte o') : o = o' := by
  have found := opOfByte_opcodeByte o
  rw [h, opOfByte_opcodeByte] at found
  exact (Option.some.inj found).symm

theorem exists_mode_of_mem_modes (f : Mode → Op) (o : Op) (h : o ∈ Op.modes f) : ∃ m : Mode, o = f m := by
  simp only [Op.modes, List.mem_cons, List.not_mem_nil, or_false] at h
  rcases h with h | h | h | h | h
  exacts [⟨_, h⟩, ⟨_, h⟩, ⟨_, h⟩, ⟨_, h⟩, ⟨_, h⟩]

/-- The block of a transfer name: the name's 5 bits before the mode code, and no other opcode there (R81). -/
theorem opcodeByte_transferBlock (f : Mode → Op) (p : BitVec 5) (hf : ∀ m, opcodeByte (f m) = p ++ m.code)
    (hblock : ∀ o ∈ Op.all, (opcodeByte o).extractLsb' 3 5 = p → o ∈ Op.modes f) :
    ∃ p : BitVec 5, (∀ m : Mode, opcodeByte (f m) = p ++ m.code) ∧
      ∀ o : Op, (opcodeByte o).extractLsb' 3 5 = p → ∃ m : Mode, o = f m :=
  ⟨p, hf, fun o ho => exists_mode_of_mem_modes f o (hblock o (mem_op_all o) ho)⟩

/-- Settles O5: the bytes are distinct, and the blocks of the four transfer names and of INT are read off the map. -/
theorem defaultOpcodeMapIsLegal : Obligations.DefaultOpcodeMapIsLegal := by
  unfold Obligations.DefaultOpcodeMapIsLegal
  refine ⟨opcodeByte_injective, fun f hf => ?transfers, 8, fun _ => rfl, fun o ho => ?ints⟩
  case transfers =>
    simp only [List.mem_cons, List.not_mem_nil, or_false] at hf
    rcases hf with rfl | rfl | rfl | rfl
    · exact opcodeByte_transferBlock _ 0 (fun _ => rfl) (by decide +kernel)
    · exact opcodeByte_transferBlock _ 1 (fun _ => rfl) (by decide +kernel)
    · exact opcodeByte_transferBlock _ 2 (fun _ => rfl) (by decide +kernel)
    · exact opcodeByte_transferBlock _ 3 (fun _ => rfl) (by decide +kernel)
  case ints =>
    have block : ∀ o ∈ Op.all, (opcodeByte o).extractLsb' 4 4 = 8 → o ∈ Op.intOps := by decide +kernel
    exact exists_int_of_mem_intOps o (block o (mem_op_all o) ho)

/-- Settles O6: eleven closed decodings. -/
theorem writtenWordsDecode : Obligations.WrittenWordsDecode := by
  unfold Obligations.WrittenWordsDecode
  decide +kernel

end Sys2Proof.Machine
end

section
/-! What every instruction does to memory, SP, the registers, PC and the flags, each said once for all of `Instr`; and
the statements that rest on it alone: completion, the lists of R27 and R31, and the invariant of the memory's form. -/

namespace Sys2Proof.Machine

/-! ## Completion -/

/-- A well-formed instruction completes (R240 (8), R300). -/
theorem exec_completes (i : Instr) (s : State) (hwf : i.wf = true) : ∃ t, exec i s = .next t := by
  cases i with
  | int n => exact ⟨_, if_pos (by simpa [Instr.wf] using hwf)⟩
  | _ => exact ⟨_, rfl⟩

/-- INT and JBE have a meaning of their own on a platform, every other instruction that of the core (R247, R257). -/
theorem execOn_cases (p : Platform) (i : Instr) (s : State) :
    (∃ n, i = .int n ∧ execOn p i s = intThrough p.intTarget n s) ∨
      (∃ d, i = .jbe d ∧ execOn p i s = .next (s.jumpIf (.be p.jbeCond) d)) ∨
      ((∀ n, i ≠ .int n) ∧ (∀ d, i ≠ .jbe d) ∧ execOn p i s = exec i s) := by
  cases i with
  | int n => exact .inl ⟨n, rfl, rfl⟩
  | jbe d => exact .inr (.inl ⟨d, rfl, rfl⟩)
  | _ => exact .inr (.inr ⟨nofun, nofun, rfl⟩)

theorem execOn_completes (p : Platform) (i : Instr) (s : State) (hwf : i.wf = true) :
    ∃ t, execOn p i s = .next t := by
  rcases execOn_cases p i s with ⟨n, rfl, h⟩ | ⟨d, rfl, h⟩ | ⟨-, -, h⟩
  · exact ⟨_, h.trans (if_pos (by simpa [Instr.wf] using hwf))⟩
  · exact ⟨_, h⟩
  · rw [h]
    exact exec_completes i s hwf

/-- Only INT has terms that are no instruction (R84). -/
theorem exists_int_of_not_wf (i : Instr) (h : i.wf = false) : ∃ n, i = .int n ∧ ¬(1 ≤ n ∧ n ≤ 16) := by
  cases i with
  | int n => exact ⟨n, rfl, by simpa [Instr.wf] using h⟩
  | _ => cases h

/-- Settles O10: every arm but INT's answers a next state outright, and INT's does for the numbers 1 to 16. -/
theorem everyInstructionCompletes : Obligations.EveryInstructionCompletes := by
  unfold Obligations.EveryInstructionCompletes
  refine fun i s => ⟨fun hwf => ⟨exec_completes i s hwf, fun p => execOn_completes p i s hwf⟩, fun hwf => ?_⟩
  obtain ⟨n, rfl, hn⟩ := exists_int_of_not_wf i hwf
  exact ⟨if_neg hn, fun _ => if_neg hn⟩

/-- What INT leaves, when it completes. -/
theorem intThrough_next {t : IntTarget} {n : Nat} {s u : State} (h : intThrough t n s = .next u) :
    u = s.enterVector t (s.npc 1) n := by
  unfold intThrough at h
  split at h <;> cases h
  rfl

/-! ## A conditional jump writes PC alone -/

section Jump
variable (s : State) (k : Cond) (d : Byte) (m : Memory)

@[simp] theorem jumpIf_mem : (s.jumpIf k d).mem = s.mem := by
  rcases jumpIf_cases s k d with ⟨-, h⟩ | ⟨-, h⟩ <;> rw [h, setPc_mem]

@[simp] theorem jumpIf_sp : (s.jumpIf k d).sp = s.sp := by
  rcases jumpIf_cases s k d with ⟨-, h⟩ | ⟨-, h⟩ <;> rw [h, setPc_sp]

@[simp] theorem jumpIf_regs : (s.jumpIf k d).regs = s.regs := by
  rcases jumpIf_cases s k d with ⟨-, h⟩ | ⟨-, h⟩ <;> rw [h, setPc_regs]

theorem jumpIf_setMem : (s.setMem m).jumpIf k d = (s.jumpIf k d).setMem m :=
  (apply_ite (State.setMem · m) (k.holds s.fl = true) (s.setPc (s.relTarget d)) (s.advance 2)).symm

end Jump

/-! ## What an instruction stores

The bytes an instruction stores and where: they come from the registers, the flags and PC, not from memory. -/

/-- The two byte stores of a word store, low byte first (R51, R59). -/
def wordStores (a v : Word) : List (Word × Byte) := [(a, v.extractLsb' 0 8), (a + 1, v.extractLsb' 8 8)]

/-- The byte stores of an instruction, in order (R59). -/
def dataStores (i : Instr) (s : State) : List (Word × Byte) :=
  match i with
  | .srbM0 x imm => [(s.ea (.abs imm), s.getB x)]
  | .srbM1 x y => [(s.ea (.ind y), s.getB x)]
  | .srbM2 x y imm => [(s.ea (.disp y imm), s.getB x)]
  | .srbM3 x y => [(s.ea (.stack y), s.getB x)]
  | .srbM4 x y z => [(s.ea (.idx y z), s.getB x)]
  | .srwM0 x imm => wordStores (s.ea (.abs imm)) (s.getW x)
  | .srwM1 x y => wordStores (s.ea (.ind y)) (s.getW x)
  | .srwM2 x y imm => wordStores (s.ea (.disp y imm)) (s.getW x)
  | .srwM3 x y => wordStores (s.ea (.stack y)) (s.getW x)
  | .srwM4 x y z => wordStores (s.ea (.idx y z)) (s.getW x)
  | .pushf => wordStores (s.sp - 2) s.fl.image
  | .push x => wordStores (s.sp - 2) (s.getW x)
  | .cR _ => wordStores (s.sp - 2) (s.npc 2)
  | .cA _ => wordStores (s.sp - 2) (s.npc 3)
  | .cX _ => wordStores (s.sp - 2) (s.npc 2)
  | .int _ => wordStores (s.sp - 2) (s.npc 1) ++ wordStores (s.sp - 2 - 2) s.fl.image
  | _ => []

/-- The memory after a list of byte stores. -/
def Memory.storeAll (m : Memory) : List (Word × Byte) → Memory
  | [] => m
  | (a, b) :: stores => (m.writeByte a b).storeAll stores

/-- The model's own list of the addresses an instruction writes is where these stores go. -/
theorem dataStores_addrs (i : Instr) (s : State) : (dataStores i s).map Prod.fst = dataWrites i s := by
  cases i <;> rfl

/-- What an instruction leaves in memory are its stores and nothing else. -/
theorem exec_mem {i : Instr} {s t : State} (h : exec i s = .next t) : t.mem = s.mem.storeAll (dataStores i s) := by
  cases i with
  | int n => rw [intThrough_next h]; rfl
  | jz | jnz | jc | jnc | jn | jnn | jv | jnv | ja | jbe | jge | jl | jg | jle => cases h; exact jumpIf_mem s _ _
  | _ => cases h; rfl

/-- The platform's parameters change nothing of that (R5). -/
theorem execOn_mem {p : Platform} {i : Instr} {s t : State} (h : execOn p i s = .next t) :
    t.mem = s.mem.storeAll (dataStores i s) := by
  rcases execOn_cases p i s with ⟨n, rfl, e⟩ | ⟨d, rfl, e⟩ | ⟨-, -, e⟩
  · rw [intThrough_next (e.symm.trans h)]
    rfl
  · cases e.symm.trans h
    exact jumpIf_mem s _ _
  · exact exec_mem (e.symm.trans h)

/-- A byte that is not stored to stays. -/
theorem readByte_storeAll_of_not_mem (stores : List (Word × Byte)) (m : Memory) (a : Word)
    (h : a ∉ stores.map Prod.fst) : (m.storeAll stores).readByte a = m.readByte a := by
  induction stores generalizing m with
  | nil => rfl
  | cons e stores ih =>
    simp only [List.map_cons, List.mem_cons, not_or] at h
    obtain ⟨hfirst, hrest⟩ := h
    rw [Memory.storeAll, ih _ hrest, readByte_writeByte_other _ _ _ _ hfirst]

/-- After the same stores two memories agree wherever one of them went and wherever they agreed before. -/
theorem readByte_storeAll_congr (stores : List (Word × Byte)) (m m' : Memory) (a : Word)
    (h : a ∈ stores.map Prod.fst ∨ m'.readByte a = m.readByte a) :
    (m'.storeAll stores).readByte a = (m.storeAll stores).readByte a := by
  induction stores generalizing m m' with
  | nil => exact h.resolve_left List.not_mem_nil
  | cons e stores ih =>
    refine ih _ _ ?_
    rw [readByte_writeByte, readByte_writeByte]
    by_cases ha : a = e.1
    · exact .inr (by rw [if_pos ha, if_pos ha])
    · rw [if_neg ha, if_neg ha]
      simpa [ha] using h

theorem wf_storeAll (stores : List (Word × Byte)) (m : Memory) (h : m.wf = true) : (m.storeAll stores).wf = true := by
  induction stores generalizing m with
  | nil => exact h
  | cons e stores ih => exact ih _ (wf_writeByte m e.1 e.2 h)

/-! ## The invariant of the memory's form -/

/-- Settles O14: a step's stores keep the form. -/
theorem everyStepKeepsMemoryCanonical : Obligations.EveryStepKeepsMemoryCanonical := by
  unfold Obligations.EveryStepKeepsMemoryCanonical
  intro s t hs h
  unfold step at h
  split at h
  next i rest _ =>
    rw [Canonical, exec_mem h]
    exact wf_storeAll _ _ hs
  next => cases h

/-- Entry through a vector keeps the form. -/
theorem canonical_enterVector (s : State) (t : IntTarget) (ret : Word) (n : Nat) (hs : Canonical s) :
    Canonical (s.enterVector t ret n) :=
  wf_writeWord _ _ _ (wf_writeWord _ _ _ hs)

/-- A step on a platform keeps the form, whether it takes a request or runs an instruction. -/
theorem canonical_platformStep {p : Platform} {req : Option (BitVec 4)} {s t : State} (hs : Canonical s)
    (h : platformStep p req s = .next t) : Canonical t := by
  rcases platformStep_next p req s t h with ⟨v, -, -, rfl⟩ | ⟨-, i, rest, -, hexec⟩
  · exact canonical_enterVector s _ _ _ hs
  · rw [Canonical, execOn_mem hexec]
    exact wf_storeAll _ _ hs

/-! ## Runs (R338) -/

theorem runOn_at_halt (p : Platform) (reqs : List (Option (BitVec 4))) (s : State) (h : p.haltPC = some s.pc) :
    runOn p reqs s = .ended s := by
  unfold runOn
  exact if_pos h

theorem runOn_nil {p : Platform} {s : State} (h : p.haltPC ≠ some s.pc) : runOn p [] s = .running s := by
  unfold runOn
  exact if_neg h

section RunStep
variable {p : Platform} {req : Option (BitVec 4)} {s : State} (reqs : List (Option (BitVec 4)))
  (h : p.haltPC ≠ some s.pc)
include h

theorem runOn_cons_next {t : State} (hstep : platformStep p req s = .next t) :
    runOn p (req :: reqs) s = runOn p reqs t := by
  rw [runOn, if_neg h]
  simp only [hstep]

theorem runOn_cons_fault {f : Fault} (hstep : platformStep p req s = .fault f) :
    runOn p (req :: reqs) s = .faulted f := by
  rw [runOn, if_neg h]
  simp only [hstep]

theorem runOn_cons_refused {r : Refusal} (hstep : platformStep p req s = .refused r) :
    runOn p (req :: reqs) s = .refused r := by
  rw [runOn, if_neg h]
  simp only [hstep]

end RunStep

/-- What holds of the first state and is kept by every step holds where a run stands or ends; and a run ends only at
`HALT_PC`. -/
theorem runOn_invariant {p : Platform} (P : State → Prop)
    (keep : ∀ req s t, P s → platformStep p req s = .next t → P t) (reqs : List (Option (BitVec 4))) (s t : State)
    (hs : P s) :
    (runOn p reqs s = .ended t → P t ∧ p.haltPC = some t.pc) ∧ (runOn p reqs s = .running t → P t) := by
  induction reqs generalizing s with
  | nil =>
    by_cases hh : p.haltPC = some s.pc
    · rw [runOn_at_halt p [] s hh]
      exact ⟨fun e => by cases e; exact ⟨hs, hh⟩, nofun⟩
    · rw [runOn_nil hh]
      exact ⟨nofun, fun e => by cases e; exact hs⟩
  | cons req reqs ih =>
    by_cases hh : p.haltPC = some s.pc
    · rw [runOn_at_halt p _ s hh]
      exact ⟨fun e => by cases e; exact ⟨hs, hh⟩, nofun⟩
    · cases hstep : platformStep p req s with
      | next u =>
        rw [runOn_cons_next reqs hh hstep]
        exact ih u (keep req s u hs hstep)
      | fault f =>
        rw [runOn_cons_fault reqs hh hstep]
        exact ⟨nofun, nofun⟩
      | refused r =>
        rw [runOn_cons_refused reqs hh hstep]
        exact ⟨nofun, nofun⟩

/-- Settles O15: the form is an invariant of the runs. -/
theorem everyRunKeepsMemoryCanonical : Obligations.EveryRunKeepsMemoryCanonical := by
  unfold Obligations.EveryRunKeepsMemoryCanonical
  intro p reqs s t hs h
  obtain ⟨ended, running⟩ :=
    runOn_invariant Canonical (fun _ _ _ hs hstep => canonical_platformStep hs hstep) reqs s t hs
  rcases h with h | h
  · exact (ended h).1
  · exact running h

/-- A run that ends normally ends at `HALT_PC`. -/
theorem haltPC_of_endsIn {p : Platform} {reqs : List (Option (BitVec 4))} {s t : State} (h : EndsIn p reqs s t) :
    p.haltPC = some t.pc :=
  ((runOn_invariant (fun _ => True) (fun _ _ _ _ _ => trivial) reqs s t trivial).1 h).2

/-- Settles O60: the run at `HALT_PC`, and what each outcome of a step makes of the run elsewhere. -/
theorem runsEndOnlyAtHaltPc : Obligations.RunsEndOnlyAtHaltPc := by
  unfold Obligations.RunsEndOnlyAtHaltPc
  refine ⟨runOn_at_halt, fun p reqs s t h => haltPC_of_endsIn h, fun p req reqs s h => ⟨runOn_nil h, ?_⟩⟩
  exact ⟨fun t => runOn_cons_next reqs h, fun f => runOn_cons_fault reqs h, fun r => runOn_cons_refused reqs h⟩

/-! ## Who writes what (R27, R31, R62) -/

/-- An instruction that R27 does not list leaves SP. -/
theorem exec_sp {i : Instr} {s t : State} (h : exec i s = .next t)
    (hop : i.op ∉ [.pushf, .push, .popf, .pop, .movsw, .cR, .cA, .cX, .ret, .iret] ++ Op.intOps) : t.sp = s.sp := by
  cases i with
  | int n => exact absurd (List.mem_append_right _ (int_mem_intOps _)) hop
  | pushf | push | popf | pop | movsw | cR | cA | cX | ret | iret => simp [Instr.op] at hop
  | jz | jnz | jc | jnc | jn | jnn | jv | jnv | ja | jbe | jge | jl | jg | jle => cases h; exact jumpIf_sp s _ _
  | _ => cases h; rfl

/-- The branching group, the stores, the pushes, POPF, MOVSW, NOP and the flag instructions leave the B registers. -/
theorem exec_regs {i : Instr} {s t : State} (h : exec i s = .next t)
    (hop : i.op ∈ Op.branchOps ++ Op.intOps ++ Op.modes .srb ++ Op.modes .srw ++
      [.pushf, .push, .popf, .movsw, .nop, .sti, .stc, .stz, .stv, .stn, .cli, .clc, .clz, .clv, .cln]) :
    t.regs = s.regs := by
  cases i with
  | int n => rw [intThrough_next h]; rfl
  | jz | jnz | jc | jnc | jn | jnn | jv | jnv | ja | jbe | jge | jl | jg | jle => cases h; exact jumpIf_regs s _ _
  | jR | jA | jX | cR | cA | cX | ret | iret | srbM0 | srbM1 | srbM2 | srbM3 | srbM4 | srwM0 | srwM1 | srwM2 | srwM3
  | srwM4 | pushf | push | popf | movsw | nop | sti | stc | stz | stv | stn | cli | clc | clz | clv | cln =>
    cases h; rfl
  | _ => simp [Instr.op, Op.branchOps, Op.intOps, Op.modes] at hop

/-- An instruction that does not store has no address it writes. -/
theorem dataWrites_of_not_listed {i : Instr} (s : State)
    (hop : i.op ∉ Op.modes .srb ++ Op.modes .srw ++ [.pushf, .push, .cR, .cA, .cX] ++ Op.intOps) :
    dataWrites i s = [] := by
  cases i with
  | int n => exact absurd (List.mem_append_right _ (int_mem_intOps _)) hop
  | srbM0 | srbM1 | srbM2 | srbM3 | srbM4 | srwM0 | srwM1 | srwM2 | srwM3 | srwM4 | pushf | push | cR | cA | cX =>
    simp [Instr.op, Op.modes] at hop
  | _ => rfl

/-- An instruction leaves every byte of memory but those it stores to. -/
theorem exec_sameMemBut {i : Instr} {s t : State} (h : exec i s = .next t) : SameMemBut (dataWrites i s) s t := by
  intro a ha
  rw [exec_mem h]
  exact readByte_storeAll_of_not_mem _ _ _ (by rwa [dataStores_addrs])

/-- Settles O55: SP, registers and memory by their lemmas; an instruction that is not listed has nothing to store. -/
theorem onlyListedInstructionsWriteSpRegistersMemory : Obligations.OnlyListedInstructionsWriteSpRegistersMemory := by
  unfold Obligations.OnlyListedInstructionsWriteSpRegistersMemory
  refine fun i s t h => ⟨exec_sp h, exec_regs h, fun hop => ?_, exec_sameMemBut h⟩
  have frame := exec_sameMemBut h
  rwa [dataWrites_of_not_listed s hop] at frame

/-- The value of the named flag. -/
def FlagName.get : FlagName → Flags → Bool
  | .i => Flags.i
  | .n => Flags.n
  | .v => Flags.v
  | .z => Flags.z
  | .c => Flags.c

/-- The arithmetic opcodes, which write N, V, Z and C (R31, R160, R200). -/
def Op.arithOps : List Op :=
  [.negb, .incb, .decb, .addb, .subb, .adcb, .sbbb, .negw, .incw, .decw, .addw, .subw, .adcw, .sbbw]

/-- The logic opcodes, which write N and Z. -/
def Op.logicOps : List Op := [.notb, .andb, .orb, .eorb, .notw, .andw, .orw, .eorw]

/-- The shift and rotate opcodes, which write N, Z and C. -/
def Op.shiftOps : List Op :=
  [.shlb1, .shlb, .shrb1, .shrb, .sarb1, .sarb, .rorb, .rolb, .shlw1, .shlwb, .shrw1, .shrwb, .sarw1, .sarwb, .rorw,
    .rolw]

/-- The opcodes that R31 lists for the flag. -/
def FlagName.writers : FlagName → List Op
  | .i => [.popf, .iret] ++ [.sti, .cli]
  | .n => [.popf, .iret] ++ Op.arithOps ++ Op.logicOps ++ Op.shiftOps ++ [.stn, .cln]
  | .v => [.popf, .iret] ++ Op.arithOps ++ [.stv, .clv]
  | .z => [.popf, .iret] ++ Op.arithOps ++ Op.logicOps ++ Op.shiftOps ++ [.stz, .clz]
  | .c => [.popf, .iret] ++ Op.arithOps ++ Op.shiftOps ++ [.stc, .clc]

/-! The adder's flags leave I (R31). -/

theorem arithB_i (s : State) (x : BReg) (a : AddRec 8) : (s.arithB x a).fl.i = s.fl.i := rfl

theorem arithW_i (s : State) (x : WReg) (a : AddRec 16) : (s.arithW x a).fl.i = s.fl.i := rfl

/-- An instruction that R31 does not list for a flag leaves it. -/
theorem exec_keeps_unlisted_flag (φ : FlagName) {i : Instr} {s t : State} (h : exec i s = .next t)
    (hop : i.op ∉ φ.writers) : φ.get t.fl = φ.get s.fl := by
  cases i with
  | int n => rw [intThrough_next h]; rfl
  | popf | iret => cases φ <;> simp [FlagName.writers, Instr.op] at hop
  | negb | incb | decb | addb | subb | adcb | sbbb =>
    cases h
    cases φ with
    | i => exact arithB_i s _ _
    | _ => simp [FlagName.writers, Op.arithOps, Instr.op] at hop
  | negw | incw | decw | addw | subw | adcw | sbbw =>
    cases h
    cases φ with
    | i => exact arithW_i s _ _
    | _ => simp [FlagName.writers, Op.arithOps, Instr.op] at hop
  | notb | andb | orb | eorb | notw | andw | orw | eorw =>
    cases h
    cases φ with
    | i | v | c => rfl
    | _ => simp [FlagName.writers, Op.logicOps, Instr.op] at hop
  | shlb1 | shlb | shrb1 | shrb | sarb1 | sarb | rorb | rolb | shlw1 | shlwb | shrw1 | shrwb | sarw1 | sarwb | rorw
  | rolw =>
    cases h
    cases φ with
    | i | v => rfl
    | _ => simp [FlagName.writers, Op.shiftOps, Instr.op] at hop
  | sti | cli =>
    cases h
    cases φ with
    | i => simp [FlagName.writers, Instr.op] at hop
    | _ => rfl
  | stn | cln =>
    cases h
    cases φ with
    | n => simp [FlagName.writers, Instr.op] at hop
    | _ => rfl
  | stv | clv =>
    cases h
    cases φ with
    | v => simp [FlagName.writers, Instr.op] at hop
    | _ => rfl
  | stz | clz =>
    cases h
    cases φ with
    | z => simp [FlagName.writers, Instr.op] at hop
    | _ => rfl
  | stc | clc =>
    cases h
    cases φ with
    | c => simp [FlagName.writers, Instr.op] at hop
    | _ => rfl
  | jz | jnz | jc | jnc | jn | jnn | jv | jnv | ja | jbe | jge | jl | jg | jle => cases h; rw [jumpIf_fl]
  | _ => cases h; rfl

/-- Settles O53: one flag at a time. -/
theorem onlyListedInstructionsWriteEachFlag : Obligations.OnlyListedInstructionsWriteEachFlag := by
  unfold Obligations.OnlyListedInstructionsWriteEachFlag
  exact fun i s t h =>
    ⟨exec_keeps_unlisted_flag .i h, exec_keeps_unlisted_flag .n h, exec_keeps_unlisted_flag .v h,
      exec_keeps_unlisted_flag .z h, exec_keeps_unlisted_flag .c h⟩

/-! ## PC after an instruction outside the branching group (R25, R26) -/

/-- The next address is counted mod 2^16 (R26). -/
theorem toNat_npc (s : State) (len : Nat) : (s.npc len).toNat = (s.pc.toNat + len) % 65536 := by
  simp [State.npc, BitVec.toNat_add]

theorem exec_pc_of_sequential {i : Instr} {s t : State} (h : exec i s = .next t) (hbranch : i.op ∉ Op.branchOps)
    (hint : i.op ∉ Op.intOps) : t.pc = s.npc i.length := by
  cases i with
  | int n => exact absurd (int_mem_intOps _) hint
  | jR | jA | jX | cR | cA | cX | jz | jnz | jc | jnc | jn | jnn | jv | jnv | ja | jbe | jge | jl | jg | jle | ret
  | iret => simp [Instr.op, Op.branchOps] at hbranch
  | _ => cases h; rfl

/-- Settles O11: outside the branching group every arm ends by advancing PC by the instruction's own length. -/
theorem sequentialInstructionsAdvanceByTheirLength : Obligations.SequentialInstructionsAdvanceByTheirLength := by
  unfold Obligations.SequentialInstructionsAdvanceByTheirLength
  intro i s hbranch hint
  have hwf : i.wf = true := by
    cases i with
    | int n => exact absurd (int_mem_intOps _) hint
    | _ => rfl
  obtain ⟨t, h⟩ := exec_completes i s hwf
  exact ⟨t, h, by rw [exec_pc_of_sequential h hbranch hint, toNat_npc, encode, length_encodeWith]⟩

end Sys2Proof.Machine
end

section
/-! Settles the statements on the step: which bytes of memory the fetch and the instruction look at (R58, R59, R96), and
where a step faults (R97). -/

namespace Sys2Proof.Machine

/-! ## The fetch of an instruction that memory holds -/

theorem length_encodeWith_le_four (opc : Op → Byte) (i : Instr) : (encodeWith opc i).length ≤ 4 := by
  rw [length_encodeWith, Instr.length]
  cases i.op.format <;> decide

/-- The bytes of the fetch window, by their offset from PC. -/
theorem fetchWindow_getElem? (s : State) (k : Nat) (h : k < 4) :
    s.fetchWindow[k]? = some (s.mem.readByte (s.pc + BitVec.ofNat 16 k)) := by
  rw [fetchWindow_eq_map, List.getElem?_map, List.getElem?_range h, Option.map_some]

/-- Memory holds the encoding of an instruction from PC on, mod 2^16 (R58). -/
def HoldsAtPc (opc : Op → Byte) (s : State) (i : Instr) : Prop :=
  ∀ (k : Nat) (b : Byte), (encodeWith opc i)[k]? = some b → s.mem.readByte (s.pc + BitVec.ofNat 16 k) = b

/-- Where memory holds an instruction at PC, the fetch answers it, whatever the bytes after it are. -/
theorem fetchWith_of_holdsAtPc {opc : Op → Byte} (distinct : ∀ o o', opc o = opc o' → o = o') {s : State} {i : Instr}
    (hwf : i.wf = true) (h : HoldsAtPc opc s i) : ∃ rest, s.fetchWith opc = .ok i rest := by
  have encoded : encodeWith opc i <+: s.fetchWindow := by
    refine List.prefix_iff_getElem?.mpr fun k hk => ?_
    rw [fetchWindow_getElem? s k (hk.trans_le (length_encodeWith_le_four opc i)),
      h k _ (List.getElem?_eq_getElem hk)]
  obtain ⟨rest, hrest⟩ := encoded
  exact ⟨rest, by rw [State.fetchWith, ← hrest, encodingDecodesToItself opc distinct i rest hwf]⟩

/-- Where the fetch answers an instruction, it is well formed and memory holds it at PC. -/
theorem holdsAtPc_of_fetchWith {opc : Op → Byte} {s : State} {i : Instr} {rest : List Byte}
    (h : s.fetchWith opc = .ok i rest) : i.wf = true ∧ HoldsAtPc opc s i := by
  obtain ⟨hwf, hbytes⟩ := decodedBytesAreTheEncoding opc _ rest i h
  refine ⟨hwf, fun k b hk => ?_⟩
  obtain ⟨hlen, -⟩ := List.getElem?_eq_some_iff.mp hk
  have inWindow := fetchWindow_getElem? s k (hlen.trans_le (length_encodeWith_le_four opc i))
  rw [← hbytes, List.getElem?_append_left hlen, hk] at inWindow
  exact (Option.some.inj inWindow).symm

/-- The addresses of an instruction's bytes. -/
theorem mem_fetchAddrs {s : State} {len k : Nat} (h : k < len) : s.pc + BitVec.ofNat 16 k ∈ fetchAddrs s len :=
  List.mem_map.mpr ⟨k, List.mem_range.mpr h, rfl⟩

theorem step_of_fetch {s : State} {i : Instr} {rest : List Byte} (h : s.fetch = .ok i rest) : step s = exec i s := by
  unfold step
  simp only [h]

/-- With no request a platform without holes does what the fetched instruction does. -/
theorem platformStep_of_fetch {p : Platform} {s : State} {i : Instr} {rest : List Byte} (hholes : p.holes = [])
    (h : s.fetchWith p.opc = .ok i rest) : platformStep p none s = execOn p i s := by
  unfold platformStep
  simp only [takenVector, h]
  exact guardAccess_of_no_holes _ _ _ hholes

/-- Settles O8: the window is the four bytes at PC. -/
theorem stepRunsTheDecodedInstruction : Obligations.StepRunsTheDecodedInstruction := by
  unfold Obligations.StepRunsTheDecodedInstruction
  exact fun s i rest h => step_of_fetch h

/-- Settles O9: the held bytes decode to the instruction, on the core and on a platform. -/
theorem stepRunsTheEncodedInstruction : Obligations.StepRunsTheEncodedInstruction := by
  unfold Obligations.StepRunsTheEncodedInstruction
  refine fun s i hwf => ⟨fun h => ?_, fun p distinct h => ?_⟩
  · obtain ⟨rest, hfetch⟩ := fetchWith_of_holdsAtPc opcodeByte_injective hwf h
    exact step_of_fetch hfetch
  · obtain ⟨rest, hfetch⟩ := fetchWith_of_holdsAtPc distinct hwf h
    exact ⟨⟨rest, hfetch⟩, fun hholes => platformStep_of_fetch hholes hfetch⟩

/-! ## An instruction over another memory

The same instruction from the same registers and flags, over a memory that has the same bytes where the instruction
reads: the registers and flags come out the same, and the same stores are made. -/

section OtherMemory
variable (s : State) (m : Memory)

@[simp] theorem ea_setMem (o : MemOperand) : (s.setMem m).ea o = s.ea o := by cases o <;> rfl

variable {s m}

theorem readWord_congr {m m' : Memory} {a : Word} (h : ∀ b ∈ wordAt a, m'.readByte b = m.readByte b) :
    m'.readWord a = m.readWord a := by
  rw [Memory.readWord, Memory.readWord, h a (by simp [wordAt]), h (a + 1) (by simp [wordAt])]

theorem loadByte_setMem {len : Nat} {x : BReg} {o : MemOperand}
    (h : ∀ a ∈ [s.ea o], m.readByte a = s.mem.readByte a) :
    (s.setMem m).loadByte len x o = (s.loadByte len x o).setMem m := by
  have loaded : m.readByte (s.ea o) = s.mem.readByte (s.ea o) := h _ (List.mem_singleton_self _)
  rw [State.loadByte, ea_setMem, setMem_mem, loaded]
  rfl

theorem loadWord_setMem {len : Nat} {x : WReg} {o : MemOperand}
    (h : ∀ a ∈ wordAt (s.ea o), m.readByte a = s.mem.readByte a) :
    (s.setMem m).loadWord len x o = (s.loadWord len x o).setMem m := by
  rw [State.loadWord, ea_setMem, setMem_mem, readWord_congr h]
  rfl

theorem top16_setMem (h : ∀ a ∈ wordAt s.sp, m.readByte a = s.mem.readByte a) : (s.setMem m).top16 = s.top16 :=
  readWord_congr h

/-- A word result of the adder goes to the registers and flags, whatever memory is. -/
theorem arithW_setMem (x : WReg) (r : AddRec 16) : (s.setMem m).arithW x r = (s.arithW x r).setMem m := rfl

/-- INT reads its target after the pushes, so where it reads it finds what was pushed or what was there before. -/
theorem enterVector_setMem {t : IntTarget} {ret : Word} {n : Nat}
    (h : ∀ a ∈ t.reads n, m.readByte a = s.mem.readByte a) :
    (s.setMem m).enterVector t ret n =
      (s.enterVector t ret n).setMem
        (m.storeAll (wordStores (s.sp - 2) ret ++ wordStores (s.sp - 2 - 2) s.fl.image)) := by
  have target := handlerAddr_congr t n _ _ fun a ha =>
    readByte_storeAll_congr (wordStores (s.sp - 2) ret ++ wordStores (s.sp - 2 - 2) s.fl.image) s.mem m a
      (.inr (h a ha))
  exact congrArg (((s.setMem m).push16 ret).push16 s.fl.image).setPc target

theorem returnFromVector_setMem
    (h : ∀ a ∈ wordAt s.sp ++ wordAt (s.sp + 2), m.readByte a = s.mem.readByte a) :
    (s.setMem m).returnFromVector = s.returnFromVector.setMem m := by
  have flags : m.readWord s.sp = s.mem.readWord s.sp := readWord_congr fun a ha => h a (List.mem_append_left _ ha)
  have pc : m.readWord (s.sp + 2) = s.mem.readWord (s.sp + 2) :=
    readWord_congr fun a ha => h a (List.mem_append_right _ ha)
  change State.setPc (State.setSp (State.setFlags (State.setSp (s.setMem m) _) (Flags.ofImage (m.readWord s.sp))) _)
    (m.readWord (s.sp + 2)) = _
  rw [flags, pc]
  rfl

end OtherMemory

/-- An instruction over another memory that agrees where it reads. -/
theorem exec_setMem {i : Instr} {s t : State} {m : Memory} (h : exec i s = .next t)
    (hreads : ∀ a ∈ dataReads intTarget i s, m.readByte a = s.mem.readByte a) :
    exec i (s.setMem m) = .next (t.setMem (m.storeAll (dataStores i s))) := by
  cases i with
  | ldbM0 | ldbM1 | ldbM2 | ldbM3 | ldbM4 => cases h; exact congrArg Host.Outcome.next (loadByte_setMem hreads)
  | ldwM0 | ldwM1 | ldwM2 | ldwM3 | ldwM4 => cases h; exact congrArg Host.Outcome.next (loadWord_setMem hreads)
  | popf =>
    cases h
    exact congrArg (fun w => Host.Outcome.next (((s.setMem m).drop16.setFlags (Flags.ofImage w)).advance 1))
      (top16_setMem hreads)
  | pop x =>
    cases h
    exact congrArg (fun w => Host.Outcome.next (((s.setMem m).drop16.setW x w).advance 2)) (top16_setMem hreads)
  | ret =>
    cases h
    exact congrArg (fun w => Host.Outcome.next ((s.setMem m).drop16.setPc w)) (top16_setMem hreads)
  | iret => cases h; exact congrArg Host.Outcome.next (returnFromVector_setMem hreads)
  | int n =>
    have hn : 1 ≤ n ∧ n ≤ 16 := by
      by_contra hn
      cases (if_neg hn).symm.trans h
    rw [intThrough_next h]
    exact (if_pos hn).trans (congrArg Host.Outcome.next (enterVector_setMem hreads))
  | jz | jnz | jc | jnc | jn | jnn | jv | jnv | ja | jbe | jge | jl | jg | jle =>
    cases h; exact congrArg Host.Outcome.next (jumpIf_setMem s _ _ m)
  | negw | incw | decw | addw | subw | adcw | sbbw =>
    cases h; exact congrArg Host.Outcome.next (arithW_setMem _ _)
  | _ => cases h; rfl

/-- Settles O56: the second state holds the same instruction at PC and is the first over another memory. -/
theorem stepDependsOnlyOnWhatItReads : Obligations.StepDependsOnlyOnWhatItReads := by
  unfold Obligations.StepDependsOnlyOnWhatItReads
  intro s s' t i rest hfetch hstep hregs hpc hsp hfl hagree
  have e : s' = s.setMem s'.mem := by
    cases s'
    cases hregs; cases hpc; cases hsp; cases hfl
    rfl
  obtain ⟨hwf, hheld⟩ := holdsAtPc_of_fetchWith hfetch
  have hheld' : HoldsAtPc opcodeByte s' i := by
    intro k b hk
    have hlen : k < i.length := by
      rw [← length_encodeWith opcodeByte i]
      exact (List.getElem?_eq_some_iff.mp hk).1
    rw [hpc, hagree _ (List.mem_append_left _ (mem_fetchAddrs hlen)), hheld k b hk]
  obtain ⟨rest', hfetch'⟩ := fetchWith_of_holdsAtPc opcodeByte_injective hwf hheld'
  have hexec : exec i s = .next t := (step_of_fetch hfetch).symm.trans hstep
  have hexec' := exec_setMem (m := s'.mem) hexec fun a ha => hagree a (List.mem_append_right _ ha)
  rw [← e] at hexec'
  refine ⟨_, (step_of_fetch hfetch').trans hexec', rfl, rfl, rfl, rfl, fun a ha => ?_⟩
  rw [setMem_mem, exec_mem hexec]
  exact readByte_storeAll_congr _ _ _ _ (by rwa [dataStores_addrs])

/-! ## Where a step faults (R92, R97) -/

/-- An opcode without a register byte reserves no bit. -/
theorem reserved_of_no_regByte (o : Op) (h : o.format ∈ [.op, .opv, .opS8, .opI16]) : o.layout.reserved = 0 := by
  have all : ∀ o ∈ Op.all, o.format ∈ [.op, .opv, .opS8, .opI16] → o.layout.reserved = 0 := by decide +kernel
  exact all o (mem_op_all o) h

/-- With three bytes after the opcode byte, operands are rejected exactly for a reserved bit of the first of them. -/
theorem decodeOperands_cases (o : Op) (b0 b1 b2 b3 : Byte) :
    (b1 &&& o.layout.reserved = 0 ∧ ∃ i rest, decodeOperands o b0 [b1, b2, b3] = .ok i rest) ∨
      (b1 &&& o.layout.reserved ≠ 0 ∧ decodeOperands o b0 [b1, b2, b3] = .reject (.reservedBits b0 b1)) := by
  unfold decodeOperands
  cases hf : o.format with
  | op | opv | opS8 | opI16 =>
    rw [reserved_of_no_regByte o (by simp [hf])]
    exact .inl ⟨BitVec.and_zero, _, _, rfl⟩
  | opR | opRI8 | opRI16 =>
    by_cases hr : b1 &&& o.layout.reserved = 0
    · exact .inl ⟨hr, _, _, if_pos hr⟩
    · exact .inr ⟨hr, if_neg hr⟩

/-- The layout of the register byte after an opcode byte, where it is an opcode byte. -/
def layoutOfByte (b : Byte) : Option Layout := (opOfByte opcodeByte b).map Op.layout

/-- A fetch is rejected at a byte that is no opcode byte, and at a register byte with a reserved bit set. -/
theorem fetch_reject_iff (s : State) (r : DecodeReject) :
    s.fetch = .reject r ↔
      (layoutOfByte (s.mem.readByte s.pc) = none ∧ r = .undefinedOpcode (s.mem.readByte s.pc)) ∨
        ((∃ l, layoutOfByte (s.mem.readByte s.pc) = some l ∧ s.mem.readByte (s.pc + 1) &&& l.reserved ≠ 0) ∧
          r = .reservedBits (s.mem.readByte s.pc) (s.mem.readByte (s.pc + 1))) := by
  rw [State.fetch, State.fetchWith, State.fetchWindow, decodeWith, layoutOfByte]
  generalize s.mem.readByte s.pc = b0, s.mem.readByte (s.pc + 1) = b1, s.mem.readByte (s.pc + 2) = b2,
    s.mem.readByte (s.pc + 3) = b3
  cases opOfByte opcodeByte b0 with
  | none => simp [eq_comm]
  | some o =>
    rcases decodeOperands_cases o b0 b1 b2 b3 with ⟨hr, i, rest, hd⟩ | ⟨hr, hd⟩
    · simp [hd, hr]
    · simpa [hd, eq_comm (a := r)] using fun _ => hr

/-- A step faults exactly where its fetch is rejected: what decodes completes. -/
theorem step_fault_iff (s : State) (f : Fault) : step s = .fault f ↔ ∃ r, s.fetch = .reject r ∧ f = s.illegal r := by
  cases h : s.fetch with
  | ok i rest =>
    obtain ⟨t, ht⟩ := exec_completes i s (holdsAtPc_of_fetchWith h).1
    simp [step_of_fetch h, ht]
  | reject r =>
    unfold step
    simp [h, eq_comm]

/-- The opcode bytes of each layout under the default map (R83, R90). -/
def opcodeBytesOf : Layout → List Nat
  | .none => [0x20, 0x22, 0x70, 0x71, 0x73, 0x74, 0x80, 0x81, 0x82, 0x83, 0x84, 0x85, 0x86, 0x87, 0x88, 0x89, 0x8A,
      0x8B, 0x8C, 0x8D, 0x8E, 0x8F, 0x90, 0x91, 0x92, 0x93, 0x94, 0x95, 0x96, 0x97, 0x98, 0x99, 0x9A, 0x9B, 0x9C,
      0x9D, 0xA0, 0xA1, 0xB0, 0xB1, 0xB2, 0xB3, 0xB4, 0xB5, 0xB6, 0xB7, 0xB8, 0xB9, 0xBA]
  | .rb => [0x00, 0x10, 0x31, 0x32, 0x36, 0x37, 0x38, 0x3D, 0x3F, 0x41, 0x43, 0x44]
  | .rw => [0x08, 0x18, 0x21, 0x23, 0x51, 0x52, 0x53, 0x54, 0x58, 0x59, 0x5A, 0x5F, 0x61, 0x63, 0x65, 0x66, 0x72, 0x75,
      0xBB]
  | .rbb => [0x30, 0x33, 0x34, 0x35, 0x39, 0x3A, 0x3B, 0x3C, 0x3E, 0x40, 0x42, 0x45]
  | .rww => [0x50, 0x55, 0x56, 0x57, 0x5B, 0x5C, 0x5D, 0x5E, 0x67]
  | .rwb => [0x60, 0x62, 0x64]
  | .tb1 => [0x01, 0x02, 0x03, 0x11, 0x12, 0x13]
  | .tw1 => [0x09, 0x0A, 0x0B, 0x19, 0x1A, 0x1B]
  | .tb2 => [0x04, 0x14]
  | .tw2 => [0x0C, 0x1C]

/-- The lists are those of the default map: each opcode's byte is on its layout's list, and each byte on a list is that
of an opcode with the layout. -/
theorem layoutOfByte_eq_some_iff (l : Layout) (b : Byte) : layoutOfByte b = some l ↔ b.toNat ∈ opcodeBytesOf l := by
  have opcodes : ∀ o ∈ Op.all, (opcodeByte o).toNat ∈ opcodeBytesOf o.layout := by decide +kernel
  have bytes : ∀ n ∈ opcodeBytesOf l, layoutOfByte (BitVec.ofNat 8 n) = some l := by cases l <;> decide +kernel
  constructor
  · intro h
    obtain ⟨o, ho, rfl⟩ := Option.map_eq_some_iff.mp h
    rw [← opc_of_opOfByte ho]
    exact opcodes o (mem_op_all o)
  · intro h
    rw [← bytes _ h, BitVec.ofNat_toNat, BitVec.setWidth_eq]

/-- The 136 bytes that R90 does not list. -/
theorem layoutOfByte_none_iff (b : Byte) :
    layoutOfByte b = none ↔
      (let n := b.toNat
       (0x05 ≤ n ∧ n ≤ 0x07) ∨ (0x0D ≤ n ∧ n ≤ 0x0F) ∨ (0x15 ≤ n ∧ n ≤ 0x17) ∨ (0x1D ≤ n ∧ n ≤ 0x1F) ∨
        (0x24 ≤ n ∧ n ≤ 0x2F) ∨ (0x46 ≤ n ∧ n ≤ 0x4F) ∨ (0x68 ≤ n ∧ n ≤ 0x6F) ∨ (0x76 ≤ n ∧ n ≤ 0x7F) ∨
        n = 0x9E ∨ n = 0x9F ∨ (0xA2 ≤ n ∧ n ≤ 0xAF) ∨ 0xBC ≤ n) := by
  have unlisted : layoutOfByte b = none ↔
      ∀ l ∈ [Layout.none, .rb, .rw, .rbb, .rww, .rwb, .tb1, .tw1, .tb2, .tw2], b.toNat ∉ opcodeBytesOf l := by
    simp only [Option.eq_none_iff_forall_ne_some, ne_eq, layoutOfByte_eq_some_iff]
    exact ⟨fun h l _ => h l, fun h l => h l (by cases l <;> simp)⟩
  rw [unlisted]
  revert b
  decide +kernel

/-- A register byte is rejected in one of the nine layouts. -/
theorem exists_reserved_iff (b0 b1 : Byte) :
    (∃ l, layoutOfByte b0 = some l ∧ b1 &&& l.reserved ≠ 0) ↔
      ∃ l ∈ [Layout.rb, .rw, .rbb, .rww, .rwb, .tb1, .tw1, .tb2, .tw2],
        b0.toNat ∈ opcodeBytesOf l ∧ b1 &&& l.reserved ≠ 0 := by
  simp only [layoutOfByte_eq_some_iff]
  constructor
  · rintro ⟨l, hl, hr⟩
    cases l with
    | none => exact absurd BitVec.and_zero hr
    | _ => exact ⟨_, by simp, hl, hr⟩
  · rintro ⟨l, -, h⟩
    exact ⟨l, h⟩

/-- Settles O7: a fault is a rejected fetch, and the two kinds of rejection are read off the default map. -/
theorem illegalInstructionExactlyAtUnlistedEncodings : Obligations.IllegalInstructionExactlyAtUnlistedEncodings := by
  unfold Obligations.IllegalInstructionExactlyAtUnlistedEncodings
  intro s f
  have fault : step s = .fault f ↔
      (layoutOfByte (s.mem.readByte s.pc) = none ∧ f = .illegalInstruction s.pc [s.mem.readByte s.pc]) ∨
        ((∃ l, layoutOfByte (s.mem.readByte s.pc) = some l ∧ s.mem.readByte (s.pc + 1) &&& l.reserved ≠ 0) ∧
          f = .illegalInstruction s.pc [s.mem.readByte s.pc, s.mem.readByte (s.pc + 1)]) := by
    simp only [step_fault_iff, fetch_reject_iff, or_and_right, exists_or, and_assoc, exists_and_left, exists_eq_left]
    rfl
  rw [fault, layoutOfByte_none_iff, exists_reserved_iff]
  simp only [List.exists_mem_cons_iff, List.not_mem_nil, false_and, exists_false, or_false]
  rfl

end Sys2Proof.Machine
end

section
/-! Settles the statements of spec 10_state.md, 20_memory.md and 70_reset_and_hazards.md on reset, memory, the stack and
the flag image, and those of 40_transfer.md and 44_misc.md. -/

namespace Sys2Proof.Machine

/-! ## Reset -/

theorem powerOn_resetAt (p : Platform) : PowerOn p (State.resetAt p.resetPC) := ⟨rfl, rfl⟩

/-- Settles O12: the reset state is built with the RESET_PC given, and its memory is empty. -/
theorem resetPutsPcAtResetPc : Obligations.ResetPutsPcAtResetPc := by
  unfold Obligations.ResetPutsPcAtResetPc
  exact ⟨fun p => ⟨resetAt_pc _, powerOn_resetAt p⟩, resetAt_pc _, powerOn_resetAt defaultPlatform⟩

/-- Settles O13: the empty memory is in canonical form. -/
theorem resetMemoryIsCanonical : Obligations.ResetMemoryIsCanonical := reset_mem_wf

/-! ## Words in memory (R51, R57) -/

theorem readWord_low (m : Memory) (a : Word) : (m.readWord a).extractLsb' 0 8 = m.readByte a := low_of_append _ _

theorem readWord_high (m : Memory) (a : Word) : (m.readWord a).extractLsb' 8 8 = m.readByte (a + 1) :=
  high_of_append _ _

/-- The byte at the lower address after a word write is the low one. -/
theorem readByte_writeWord_low (m : Memory) (a v : Word) : (m.writeWord a v).readByte a = v.extractLsb' 0 8 := by
  rw [readByte_writeWord, if_neg (addr_succ_ne a).symm, if_pos rfl]

theorem readByte_writeWord_high (m : Memory) (a v : Word) : (m.writeWord a v).readByte (a + 1) = v.extractLsb' 8 8 := by
  rw [readByte_writeWord, if_pos rfl]

/-- Settles O17: reads after byte and word writes, by the memory laws. -/
theorem mixedWidthAccessesSeeOneArray : Obligations.MixedWidthAccessesSeeOneArray := by
  unfold Obligations.MixedWidthAccessesSeeOneArray
  refine ⟨fun m a v => ?wordWrite, fun m a l h => ?byteWrites, fun m a => ?overlap, fun m => rfl⟩
  case wordWrite =>
    exact ⟨readByte_writeWord_low m a v, readByte_writeWord_high m a v, readWord_writeWord_same m a v,
      fun k h0 h1 => readByte_writeWord_other m a k v h0 h1⟩
  case byteWrites =>
    refine ⟨?_, readByte_writeByte_same m a l, fun k hk => readByte_writeByte_other m a k l hk⟩
    rw [Memory.readWord, readByte_writeByte_same, readByte_writeByte_other _ _ _ _ (addr_succ_ne a).symm,
      readByte_writeByte_same]
  case overlap => rw [readWord_low, readWord_high]

/-- A state with the same memory has the same bytes. -/
theorem sameMemBut_of_mem_eq {s t : State} (h : t.mem = s.mem) (stored : List Word) : SameMemBut stored s t :=
  fun a _ => by rw [h]

/-- A state whose memory is that of another after a byte store. -/
theorem sameMemBut_writeByte {s t : State} {a : Word} {b : Byte} (h : t.mem = s.mem.writeByte a b) :
    SameMemBut [a] s t := by
  intro k hk
  rw [h, readByte_writeByte_other _ _ _ _ (by simpa using hk)]

/-- A state whose memory is that of another after a word store. -/
theorem sameMemBut_writeWord {s t : State} {a v : Word} (h : t.mem = s.mem.writeWord a v) :
    SameMemBut [a, a + 1] s t := by
  intro k hk
  simp only [List.mem_cons, List.not_mem_nil, or_false, not_or] at hk
  rw [h, readByte_writeWord_other _ _ _ _ hk.1 hk.2]

/-! ## The stack (R28) -/

/-- The second byte of the word on top of the stack after a push. -/
theorem sub_two_add_one (a : Word) : a - 2 + 1 = a - 1 := by bv_omega

/-- What a push leaves in memory: the low byte at SP - 2, the high byte at SP - 1, the rest as before. -/
theorem pushed_bytes {s t : State} {v : Word} (h : t.mem = s.mem.writeWord (s.sp - 2) v) :
    t.mem.readByte (s.sp - 2) = v.extractLsb' 0 8 ∧ t.mem.readByte (s.sp - 1) = v.extractLsb' 8 8 ∧
      SameMemBut [s.sp - 2, s.sp - 1] s t := by
  have frame := sameMemBut_writeWord h
  rw [sub_two_add_one] at frame
  rw [h, ← sub_two_add_one s.sp]
  exact ⟨readByte_writeWord_low _ _ _, readByte_writeWord_high _ _ _, by rwa [sub_two_add_one]⟩

/-- Settles O18: the pushed bytes, and SP down and up by 2 mod 2^16. -/
theorem pushThenPopRestores : Obligations.PushThenPopRestores := by
  unfold Obligations.PushThenPopRestores
  intro s v
  obtain ⟨low, high, frame⟩ := pushed_bytes (push16_mem s v)
  refine ⟨⟨?down, low, high, frame⟩, ⟨rfl, ?up, rfl⟩, top16_push16 s v, ?restored, rfl, rfl, rfl⟩
  case down => rw [push16_sp]; bv_omega
  case up => rw [drop16_sp]; bv_omega
  case restored => rw [drop16_sp, push16_sp]; bv_omega

/-! ## The flag image (R30) -/

theorem toNat_image (f : Flags) :
    f.image.toNat = 16 * f.i.toNat + 8 * f.n.toNat + 4 * f.v.toNat + 2 * f.z.toNat + f.c.toNat := by
  obtain ⟨i, n, v, z, c⟩ := f
  cases i <;> cases n <;> cases v <;> cases z <;> cases c <;> rfl

/-- Settles O19: the image bit by bit, and reading back looks at the five low bits alone. -/
theorem flagImageLayout : Obligations.FlagImageLayout := by
  unfold Obligations.FlagImageLayout
  refine ⟨toNat_image, fun _ => rfl, ofImage_image, fun w w' h => ?_⟩
  rw [← ofImage_low_bits w, h, ofImage_low_bits w']

/-- The five flags lie in the low byte of the image's word. -/
theorem ofImage_readWord (m : Memory) (a : Word) :
    Flags.ofImage (m.readWord a) =
      { i := (m.readByte a).getLsbD 4, n := (m.readByte a).getLsbD 3, v := (m.readByte a).getLsbD 2,
        z := (m.readByte a).getLsbD 1, c := (m.readByte a).getLsbD 0 } := by
  rw [← readWord_low]
  simp [Flags.ofImage]

/-! ## Loads (R120) -/

/-- A transfer's instructions for the five modes are one transfer `f` at five operands (R85). -/
theorem exec_of_mode_list {s : State} {f : Nat → MemOperand → State} {i i0 i1 i2 i3 i4 : Instr} {y z : WReg}
    {imm a : Word} {len : Nat} (h0 : exec i0 s = .next (f 4 (.abs imm))) (h1 : exec i1 s = .next (f 2 (.ind y)))
    (h2 : exec i2 s = .next (f 4 (.disp y imm))) (h3 : exec i3 s = .next (f 2 (.stack y)))
    (h4 : exec i4 s = .next (f 2 (.idx y z)))
    (hlisted : (i, a, len) ∈ ([(i0, imm, 4), (i1, s.getW y, 2), (i2, s.getW y + imm, 4), (i3, s.sp + s.getW y, 2),
      (i4, s.getW y + s.getW z, 2)] : List (Instr × Word × Nat))) :
    ∃ o, a = s.ea o ∧ exec i s = .next (f len o) := by
  simp only [List.mem_cons, List.not_mem_nil, or_false, Prod.mk.injEq] at hlisted
  rcases hlisted with ⟨rfl, rfl, rfl⟩ | ⟨rfl, rfl, rfl⟩ | ⟨rfl, rfl, rfl⟩ | ⟨rfl, rfl, rfl⟩ | ⟨rfl, rfl, rfl⟩
  exacts [⟨_, rfl, h0⟩, ⟨_, rfl, h1⟩, ⟨_, rfl, h2⟩, ⟨_, rfl, h3⟩, ⟨_, rfl, h4⟩]

/-- A word load, by the bytes it takes from memory and the halves it puts them in. -/
theorem loadWord_halves (s : State) (len : Nat) (x : WReg) (o : MemOperand) :
    (s.loadWord len x o).getB (loHalf x) = s.mem.readByte (s.ea o) ∧
      (s.loadWord len x o).getB (hiHalf x) = s.mem.readByte (s.ea o + 1) ∧ SameWBut x s (s.loadWord len x o) := by
  refine ⟨?_, ?_, fun y => getB_setW_other s x _ y⟩
  · rw [State.loadWord, getB_advance, getB_lo_setW, readWord_low]
  · rw [State.loadWord, getB_advance, getB_hi_setW, readWord_high]

/-- Settles O20: the five modes are one load at five operands. -/
theorem byteLoadsReadTheEffectiveAddress : Obligations.ByteLoadsReadTheEffectiveAddress := by
  unfold Obligations.ByteLoadsReadTheEffectiveAddress
  intro s x y z imm i a len hlisted
  obtain ⟨o, rfl, hexec⟩ :=
    exec_of_mode_list (f := fun len o => s.loadByte len x o) rfl rfl rfl rfl rfl hlisted
  obtain ⟨loaded, others, hsp, hfl, hmem, hpc⟩ := loadByte_fields s len x o
  exact ⟨_, hexec, loaded, others, hsp, hfl, sameMemBut_of_mem_eq hmem _, by rw [hpc, toNat_npc]⟩

/-- Settles O21: the same for the word load, by the halves it writes. -/
theorem wordLoadsReadTheEffectiveAddress : Obligations.WordLoadsReadTheEffectiveAddress := by
  unfold Obligations.WordLoadsReadTheEffectiveAddress
  intro s x y z imm i a len hlisted
  obtain ⟨o, rfl, hexec⟩ :=
    exec_of_mode_list (f := fun len o => s.loadWord len x o) rfl rfl rfl rfl rfl hlisted
  obtain ⟨low, high, others⟩ := loadWord_halves s len x o
  obtain ⟨-, -, hsp, hfl, hmem, hpc⟩ := loadWord_fields s len x o
  exact ⟨_, hexec, low, high, others, hsp, hfl, sameMemBut_of_mem_eq hmem _, by rw [hpc, toNat_npc]⟩

/-! ## Stores -/

/-- Settles O22: the five modes are one store at five operands. -/
theorem byteStoresWriteTheEffectiveAddress : Obligations.ByteStoresWriteTheEffectiveAddress := by
  unfold Obligations.ByteStoresWriteTheEffectiveAddress
  intro s x y z imm i a len hlisted
  obtain ⟨o, rfl, hexec⟩ :=
    exec_of_mode_list (f := fun len o => s.storeByte len x o) rfl rfl rfl rfl rfl hlisted
  obtain ⟨hregs, hsp, hfl, hmem, hpc⟩ := storeByte_fields s len x o
  have stored : (s.storeByte len x o).mem.readByte (s.ea o) = s.getB x := by rw [hmem, readByte_writeByte_same]
  exact ⟨_, hexec, stored, sameMemBut_writeByte hmem, hregs, hsp, hfl, by rw [hpc, toNat_npc]⟩

/-- Settles O23: the same for the word store, by the bytes it writes. -/
theorem wordStoresWriteTheEffectiveAddress : Obligations.WordStoresWriteTheEffectiveAddress := by
  unfold Obligations.WordStoresWriteTheEffectiveAddress
  intro s x y z imm i a len hlisted
  obtain ⟨o, rfl, hexec⟩ :=
    exec_of_mode_list (f := fun len o => s.storeWord len x o) rfl rfl rfl rfl rfl hlisted
  obtain ⟨hregs, hsp, hfl, hmem, hpc⟩ := storeWord_fields s len x o
  have low : (s.storeWord len x o).mem.readByte (s.ea o) = s.getB (loHalf x) := by
    rw [hmem, readByte_writeWord_low, State.getW, low_of_append]
  have high : (s.storeWord len x o).mem.readByte (s.ea o + 1) = s.getB (hiHalf x) := by
    rw [hmem, readByte_writeWord_high, State.getW, high_of_append]
  exact ⟨_, hexec, low, high, sameMemBut_writeWord hmem, hregs, hsp, hfl, by rw [hpc, toNat_npc]⟩

/-! ## Pushes and pops -/

/-- Settles O24: both are a push and an advance. -/
theorem pushesStoreBelowTheStackPointer : Obligations.PushesStoreBelowTheStackPointer := by
  unfold Obligations.PushesStoreBelowTheStackPointer
  intro s x i v len hlisted
  have hexec : exec i s = .next ((s.push16 v).advance len) := by
    simp only [List.mem_cons, List.not_mem_nil, or_false, Prod.mk.injEq] at hlisted
    rcases hlisted with ⟨rfl, rfl, rfl⟩ | ⟨rfl, rfl, rfl⟩ <;> rfl
  obtain ⟨low, high, frame⟩ := pushed_bytes (t := (s.push16 v).advance len) rfl
  exact ⟨_, hexec, rfl, low, high, frame, rfl, rfl, toNat_npc s len⟩

/-- Settles O25: POPF takes the five low bits of the word at SP, POP its two halves. -/
theorem popsLoadFromTheStackPointer : Obligations.PopsLoadFromTheStackPointer := by
  unfold Obligations.PopsLoadFromTheStackPointer
  refine fun s => ⟨⟨_, rfl, ofImage_readWord _ _, rfl, rfl, sameMemBut_of_mem_eq rfl _, toNat_npc s 1⟩, fun x => ?_⟩
  have low : (s.drop16.setW x s.top16).getB (loHalf x) = s.mem.readByte s.sp := by
    rw [getB_lo_setW, State.top16, readWord_low]
  have high : (s.drop16.setW x s.top16).getB (hiHalf x) = s.mem.readByte (s.sp + 1) := by
    rw [getB_hi_setW, State.top16, readWord_high]
  exact ⟨_, rfl, low, high, getB_setW_other s.drop16 x _, rfl, rfl, sameMemBut_of_mem_eq rfl _, toNat_npc s 2⟩

/-! ## Misc (R280 to R292) -/

/-- Settles O51: each arm writes the flags the list gives. -/
theorem flagInstructionsWriteOneFlag : Obligations.FlagInstructionsWriteOneFlag := by
  unfold Obligations.FlagInstructionsWriteOneFlag
  intro s i f hlisted
  simp only [List.mem_cons, List.not_mem_nil, or_false, Prod.mk.injEq] at hlisted
  rcases hlisted with ⟨rfl, rfl⟩ | ⟨rfl, rfl⟩ | ⟨rfl, rfl⟩ | ⟨rfl, rfl⟩ | ⟨rfl, rfl⟩ | ⟨rfl, rfl⟩ | ⟨rfl, rfl⟩ |
    ⟨rfl, rfl⟩ | ⟨rfl, rfl⟩ | ⟨rfl, rfl⟩ | ⟨rfl, rfl⟩ <;> rfl

/-- Settles O52: the sum is taken mod 2^16 once. -/
theorem leaAddsToTheNextAddress : Obligations.LeaAddsToTheNextAddress := by
  unfold Obligations.LeaAddsToTheNextAddress
  intro s x imm
  have sum : ((s.setW x (s.npc 4 + imm)).advance 4).getW x = s.npc 4 + imm := by rw [getW_advance, getW_setW_same]
  refine ⟨_, rfl, ?_, fun y => getB_setW_other s x _ y, rfl, rfl, sameMemBut_of_mem_eq rfl _, toNat_npc s 4⟩
  rw [sum, BitVec.toNat_add, toNat_npc, Nat.mod_add_mod]

end Sys2Proof.Machine
end

section
/-! Settles the statements of spec 43_branching.md on jumps, calls, INT and the returns, and those of 60_exceptions.md
and 20_memory.md R56 on the platform. -/

namespace Sys2Proof.Machine

/-! ## Jumps -/

/-- The relative target is the address after the 2-byte jump plus the signed displacement, mod 2^16 (R240). -/
theorem toNat_relTarget (s : State) (d : Byte) :
    ((s.relTarget d).toNat : Int) = ((s.pc.toNat : Int) + 2 + d.toInt) % 65536 := by
  have disp : ((d.signExtend 16).toNat : Int) = d.toInt % 65536 := by
    rw [BitVec.signExtend, BitVec.toNat_ofInt]
    omega
  rw [State.relTarget, BitVec.toNat_add, toNat_npc]
  omega

/-- Settles O40: PC alone is written, and the relative target is counted mod 2^16. -/
theorem jumpsChangeOnlyThePc : Obligations.JumpsChangeOnlyThePc := by
  unfold Obligations.JumpsChangeOnlyThePc
  exact fun s d imm x => ⟨⟨_, rfl, toNat_relTarget s d⟩, rfl, rfl⟩

/-- What a conditional jump does, by a proposition that says when its condition holds (R240 (7)). -/
theorem jumpIf_of_cond_iff {s : State} {k : Cond} {cond : Prop} (d : Byte) (hcond : cond ↔ k.holds s.fl = true) :
    (cond → s.jumpIf k d = s.setPc (s.relTarget d)) ∧ (¬cond → s.jumpIf k d = s.setPc (s.npc 2)) := by
  rw [hcond]
  exact ⟨fun h => if_pos h, fun h => if_neg h⟩

/-- The same as the statements put it, with the new PC as a number. -/
theorem exists_pc_of_jumpIf {s : State} {k : Cond} {d : Byte} {cond : Prop} {o : Outcome}
    (hexec : o = .next (s.jumpIf k d)) (hcond : cond ↔ k.holds s.fl = true) :
    ∃ p : Word, o = .next { s with pc := p } ∧
      (cond → (p.toNat : Int) = ((s.pc.toNat : Int) + 2 + d.toInt) % 65536) ∧
      (¬cond → p.toNat = (s.pc.toNat + 2) % 65536) := by
  obtain ⟨taken, notTaken⟩ := jumpIf_of_cond_iff d hcond
  by_cases h : cond
  · exact ⟨_, by rw [hexec, taken h]; rfl, fun _ => toNat_relTarget s d, fun hn => absurd h hn⟩
  · exact ⟨_, by rw [hexec, notTaken h]; rfl, fun hc => absurd hc h, fun _ => toNat_npc s 2⟩

section Conditions
variable (f : Flags)

/-! The conditions that are made of more than one flag (R256 to R261). -/

theorem holds_a_iff : Cond.holds .a f = true ↔ f.c = true ∧ f.z = false := by simp [Cond.holds]
theorem holds_be_resolved_iff : Cond.holds (.be .resolved) f = true ↔ f.c = false ∨ f.z = true := by
  simp [Cond.holds, beHolds]
theorem holds_be_printed_iff : Cond.holds (.be .printed) f = true ↔ f.c = false ∧ f.z = true := by
  simp [Cond.holds, beHolds]
theorem holds_ge_iff : Cond.holds .ge f = true ↔ f.n = f.v := by simp [Cond.holds]
theorem holds_l_iff : Cond.holds .l f = true ↔ f.n ≠ f.v := by simp [Cond.holds]
theorem holds_g_iff : Cond.holds .g f = true ↔ f.z = false ∧ f.n = f.v := by simp [Cond.holds]
theorem holds_le_iff : Cond.holds .le f = true ↔ f.z = true ∨ f.n ≠ f.v := by simp [Cond.holds]

end Conditions

/-- Settles O43: each jump by its condition. -/
theorem conditionalJumpsFollowTheirConditions : Obligations.ConditionalJumpsFollowTheirConditions := by
  unfold Obligations.ConditionalJumpsFollowTheirConditions
  intro s d i cond h
  rcases h with ⟨rfl, h⟩ | ⟨rfl, h⟩ | ⟨rfl, h⟩ | ⟨rfl, h⟩ | ⟨rfl, h⟩ | ⟨rfl, h⟩ | ⟨rfl, h⟩ | ⟨rfl, h⟩ | ⟨rfl, h⟩ |
    ⟨rfl, h⟩ | ⟨rfl, h⟩ | ⟨rfl, h⟩ | ⟨rfl, h⟩ | ⟨rfl, h⟩
  · exact exists_pc_of_jumpIf (k := .z) rfl h
  · exact exists_pc_of_jumpIf (k := .nz) rfl (h.trans (Bool.not_eq_true' _).symm.to_iff)
  · exact exists_pc_of_jumpIf (k := .c) rfl h
  · exact exists_pc_of_jumpIf (k := .nc) rfl (h.trans (Bool.not_eq_true' _).symm.to_iff)
  · exact exists_pc_of_jumpIf (k := .n) rfl h
  · exact exists_pc_of_jumpIf (k := .nn) rfl (h.trans (Bool.not_eq_true' _).symm.to_iff)
  · exact exists_pc_of_jumpIf (k := .v) rfl h
  · exact exists_pc_of_jumpIf (k := .nv) rfl (h.trans (Bool.not_eq_true' _).symm.to_iff)
  · exact exists_pc_of_jumpIf (k := .a) rfl (h.trans (holds_a_iff _).symm)
  · exact exists_pc_of_jumpIf (k := .be .resolved) rfl (h.trans (holds_be_resolved_iff _).symm)
  · exact exists_pc_of_jumpIf (k := .ge) rfl (h.trans (holds_ge_iff _).symm)
  · exact exists_pc_of_jumpIf (k := .l) rfl (h.trans (holds_l_iff _).symm)
  · exact exists_pc_of_jumpIf (k := .g) rfl (h.trans (holds_g_iff _).symm)
  · exact exists_pc_of_jumpIf (k := .le) rfl (h.trans (holds_le_iff _).symm)

/-- JBE under either reading of `JBE_COND`. -/
theorem holds_be_iff (k : JbeCond) (f : Flags) :
    Cond.holds (.be k) f = true ↔
      (k = .resolved ∧ (f.c = false ∨ f.z = true)) ∨ (k = .printed ∧ f.c = false ∧ f.z = true) := by
  cases k with
  | resolved => simp [holds_be_resolved_iff]
  | printed => simp [holds_be_printed_iff]

/-- Settles O44: INT and JBE are the only arms of a platform; JBE jumps under the reading given. -/
theorem platformChoosesOnlyIntTargetAndJbeCondition : Obligations.PlatformChoosesOnlyIntTargetAndJbeCondition := by
  unfold Obligations.PlatformChoosesOnlyIntTargetAndJbeCondition
  refine fun p s => ⟨fun i hint hjbe => ?_, fun d taken htaken => ?_⟩
  · rcases execOn_cases p i s with ⟨n, rfl, -⟩ | ⟨d, rfl, -⟩ | ⟨-, -, h⟩
    · exact absurd (int_mem_intOps _) hint
    · exact absurd rfl hjbe
    · exact h
  · exact exists_pc_of_jumpIf (k := .be p.jbeCond) rfl (htaken.trans (holds_be_iff _ _).symm)

/-- The jump whose target is itself, J with displacement 0xFE (R241, R316). -/
theorem relTarget_self (s : State) : s.relTarget 0xFE = s.pc := by
  have disp : (0xFE : Byte).signExtend 16 = 0xFFFE := rfl
  rw [State.relTarget, State.npc, disp]
  bv_omega

/-- Settles O48: a step where memory holds the self-jump is the jump, which leaves the state as it is. -/
theorem selfJumpLoopsForever : Obligations.SelfJumpLoopsForever := by
  unfold Obligations.SelfJumpLoopsForever
  intro s h0 h1
  have held : HoldsAtPc opcodeByte s (.jR 0xFE) := by
    intro k b hk
    match k with
    | 0 => exact (congrArg s.mem.readByte (BitVec.add_zero _)).trans (h0.trans (Option.some.inj hk))
    | 1 => exact h1.trans (Option.some.inj hk)
    | k + 2 => cases hk
  have stays : Sys2Proof.core.step s = .next s := by
    obtain ⟨rest, hfetch⟩ := fetchWith_of_holdsAtPc opcodeByte_injective rfl held
    exact (step_of_fetch hfetch).trans (congrArg (fun a => Host.Outcome.next (s.setPc a)) (relTarget_self s))
  intro k
  induction k with
  | zero => rfl
  | succ k ih => simpa only [Host.Core.run, stays] using ih

/-! ## Calls and RET (R244 to R246, R262) -/

theorem toNat_lowByte (w : Word) : (w.extractLsb' 0 8).toNat = w.toNat % 256 := by
  simp [BitVec.extractLsb'_toNat]

theorem toNat_highByte (w : Word) : (w.extractLsb' 8 8).toNat = w.toNat / 256 := by
  rw [BitVec.extractLsb'_toNat, Nat.shiftRight_eq_div_pow]
  omega

/-- Settles O41: the three are one call at their lengths and targets. -/
theorem callsPushTheReturnAddress : Obligations.CallsPushTheReturnAddress := by
  unfold Obligations.CallsPushTheReturnAddress
  intro s d imm x i target len hlisted
  obtain ⟨a, hexec, htarget⟩ : ∃ a : Word, exec i s = .next (s.callTo len a) ∧ (a.toNat : Int) = target := by
    simp only [List.mem_cons, List.not_mem_nil, or_false, Prod.mk.injEq] at hlisted
    rcases hlisted with ⟨rfl, rfl, rfl⟩ | ⟨rfl, rfl, rfl⟩ | ⟨rfl, rfl, rfl⟩
    exacts [⟨_, rfl, toNat_relTarget s d⟩, ⟨_, rfl, rfl⟩, ⟨_, rfl, rfl⟩]
  obtain ⟨hregs, hfl, hsp, hmem, hpc⟩ := callTo_fields s len a
  obtain ⟨low, high, frame⟩ := pushed_bytes hmem
  refine ⟨_, hexec, by rw [hpc, htarget], hsp, ?_, ?_, frame, hregs, hfl⟩
  · rw [low, toNat_lowByte, toNat_npc]
  · rw [high, toNat_highByte, toNat_npc]

/-- RET as one update (R262). -/
theorem exec_ret (s : State) : exec .ret s = .next { s with pc := s.mem.readWord s.sp, sp := s.sp + 2 } := rfl

/-- A return from a vector as one update (R263, R306). -/
theorem returnFromVector_eq (s : State) :
    s.returnFromVector =
      { s with pc := s.mem.readWord (s.sp + 2), sp := s.sp + 4, fl := Flags.ofImage (s.mem.readWord s.sp) } := by
  have e : s.sp + 4 = s.sp + 2 + 2 := by bv_omega
  rw [e]
  rfl

/-- Settles O45: both returns as one update each. -/
theorem returnsPopThePc : Obligations.ReturnsPopThePc := by
  unfold Obligations.ReturnsPopThePc
  refine fun s => ⟨exec_ret s, ?_⟩
  have e : s.sp + 3 = s.sp + 2 + 1 := by bv_omega
  rw [e, ← ofImage_readWord]
  exact congrArg Host.Outcome.next (returnFromVector_eq s)

/-- Settles O47: RET finds at SP the word that the call pushed. -/
theorem retUndoesCalls : Obligations.RetUndoesCalls := by
  unfold Obligations.RetUndoesCalls
  intro s d imm x i len hlisted
  obtain ⟨a, hexec⟩ : ∃ a : Word, exec i s = .next (s.callTo len a) := by
    simp only [List.mem_cons, List.not_mem_nil, or_false, Prod.mk.injEq] at hlisted
    rcases hlisted with ⟨rfl, rfl⟩ | ⟨rfl, rfl⟩ | ⟨rfl, rfl⟩ <;> exact ⟨_, rfl⟩
  refine ⟨_, hexec, fun h hsp hbytes => ?_⟩
  have top : h.mem.readWord (s.sp - 2) = s.npc len := by
    have pushed : (s.callTo len a).mem.readWord (s.sp - 2) = s.npc len := readWord_writeWord_same _ _ _
    rw [← pushed]
    refine readWord_congr fun b hb => hbytes b ?_
    rwa [wordAt, sub_two_add_one] at hb
  have sp : h.sp = s.sp - 2 := hsp
  have restored : s.sp - 2 + 2 = s.sp := by bv_omega
  rw [exec_ret, sp, top, restored]
  rfl

/-! ## INT, requests and IRET (R247, R302 to R306) -/

/-- Entry through a vector saves the return address and the flags (R302). -/
theorem savedForHandler_enterVector (s : State) (t : IntTarget) (ret : Word) (n : Nat) :
    SavedForHandler s (s.enterVector t ret n) ret := by
  obtain ⟨hregs, hfl, hsp, hmem, -⟩ := enterVector_fields s t ret n
  have e : s.sp - 2 - 2 = s.sp - 4 := by bv_omega
  rw [e] at hsp hmem
  refine ⟨hsp, ?address, ?image, ?frame, hregs, hfl⟩
  case address =>
    rw [hmem, readWord_writeWord_other _ _ _ _ (by bv_omega) (by bv_omega) (by bv_omega), readWord_writeWord_same]
  case image => rw [hmem, readWord_writeWord_same]
  case frame =>
    intro a ha
    simp only [List.mem_cons, List.not_mem_nil, or_false, not_or] at ha
    obtain ⟨h4, h3, h2, h1⟩ := ha
    rw [hmem, readByte_writeWord_other _ _ _ _ h4 (by bv_omega), readByte_writeWord_other _ _ _ _ h2 (by bv_omega)]

/-- On every platform INT enters through its vector (R247). -/
theorem execOn_int (p : Platform) (s : State) {n : Nat} (h1 : 1 ≤ n) (h16 : n ≤ 16) :
    execOn p (.int n) s = .next (s.enterVector p.intTarget (s.npc 1) n) := if_pos ⟨h1, h16⟩

/-- Settles O42: the entry saves PC and flags; the default target is the word in the table. -/
theorem intEntersThroughItsVector : Obligations.IntEntersThroughItsVector := by
  unfold Obligations.IntEntersThroughItsVector
  refine fun s n h1 h16 => ⟨?default, fun p => ?platform⟩
  case default =>
    exact ⟨_, execOn_int defaultPlatform s h1 h16, savedForHandler_enterVector s _ _ n,
      handlerAddr_tableTarget Config.vecBase n _⟩
  case platform => exact ⟨_, execOn_int p s h1 h16, savedForHandler_enterVector s _ _ n, rfl⟩

/-- Settles O46: IRET finds at SP the image and above it the address that INT pushed. -/
theorem iretUndoesInt : Obligations.IretUndoesInt := by
  unfold Obligations.IretUndoesInt
  intro p s n h1 h16
  refine ⟨_, execOn_int p s h1 h16, fun h hsp hbytes => ?_⟩
  obtain ⟨sp, address, image, -⟩ := savedForHandler_enterVector s p.intTarget (s.npc 1) n
  have image' : h.mem.readWord (s.sp - 4) = s.fl.image := by
    rw [← image]
    have e : s.sp - 4 + 1 = s.sp - 3 := by bv_omega
    refine readWord_congr fun b hb => hbytes b ?_
    rw [wordAt, e] at hb
    exact List.mem_append_left [s.sp - 2, s.sp - 1] hb
  have address' : h.mem.readWord (s.sp - 2) = s.npc 1 := by
    rw [← address]
    refine readWord_congr fun b hb => hbytes b ?_
    rw [wordAt, sub_two_add_one] at hb
    exact List.mem_append_right [s.sp - 4, s.sp - 3] hb
  have e2 : s.sp - 4 + 2 = s.sp - 2 := by bv_omega
  have e4 : s.sp - 4 + 4 = s.sp := by bv_omega
  refine (congrArg Host.Outcome.next (returnFromVector_eq h)).trans ?_
  rw [hsp, sp, e2, e4, image', address', ofImage_image]
  rfl

/-! ## A step on a platform (R56, R304, R305) -/

/-- A request that is not presented, or is presented while I is 0, is no request. -/
theorem takenVector_none {req : Option (BitVec 4)} {s : State} (h : req = none ∨ s.fl.i = false) :
    takenVector req s = none := by
  cases req with
  | none => rfl
  | some v => exact if_neg (by simpa using h)

/-- Then the step goes by the fetch. -/
theorem platformStep_of_no_request {p : Platform} {req : Option (BitVec 4)} {s : State}
    (h : req = none ∨ s.fl.i = false) : platformStep p req s = platformStep p none s := by
  unfold platformStep
  rw [takenVector_none h]
  rfl

/-- A request presented while I is 1 is taken, whatever the fetch would answer. -/
theorem platformStep_of_request {p : Platform} {s : State} (v : BitVec 4) (h : s.fl.i = true) :
    platformStep p (some v) s = takeRequest p (v.toNat + 1) s := by
  unfold platformStep
  simp only [takenVector, h, if_true]

/-- What a platform step without a request does with what the fetch answers. -/
theorem platformStep_fetched {p : Platform} {s : State} {i : Instr} {rest : List Byte}
    (h : s.fetchWith p.opc = .ok i rest) :
    platformStep p none s =
      guardAccess p (fetchAddrs s i.length ++ dataWrites i s ++ dataReads p.intTarget i s) (execOn p i s) := by
  unfold platformStep
  simp only [takenVector, h]

theorem platformStep_rejected {p : Platform} {s : State} {r : DecodeReject} (h : s.fetchWith p.opc = .reject r) :
    platformStep p none s = guardAccess p (fetchAddrs s r.bytes.length) (.fault (s.illegal r)) := by
  unfold platformStep
  simp only [takenVector, h]

theorem step_of_reject {s : State} {r : DecodeReject} (h : s.fetch = .reject r) : step s = .fault (s.illegal r) := by
  unfold step
  simp only [h]

/-- At the default parameters every instruction has the core's meaning. -/
theorem execOn_defaultPlatform (i : Instr) (s : State) : execOn defaultPlatform i s = exec i s := by
  cases i <;> rfl

theorem platformStep_defaultPlatform (s : State) : platformStep defaultPlatform none s = step s := by
  cases h : s.fetch with
  | ok i rest =>
    rw [platformStep_fetched (p := defaultPlatform) h, guardAccess_of_no_holes _ _ _ rfl, execOn_defaultPlatform,
      step_of_fetch h]
  | reject r =>
    rw [platformStep_rejected (p := defaultPlatform) h, guardAccess_of_no_holes _ _ _ rfl, step_of_reject h]

/-- Settles O57: there is no halt address to end a run at. -/
theorem defaultPlatformIsTheCore : Obligations.DefaultPlatformIsTheCore := by
  unfold Obligations.DefaultPlatformIsTheCore
  exact ⟨execOn_defaultPlatform, platformStep_defaultPlatform, fun _ _ _ h => nomatch haltPC_of_endsIn h⟩

/-- A request taken on a platform without holes enters as INT does, with the PC of the instruction not yet executed. -/
theorem platformStep_enters {p : Platform} {s : State} (v : BitVec 4) (hi : s.fl.i = true) (hholes : p.holes = []) :
    platformStep p (some v) s = .next (s.enterVector p.intTarget s.pc (v.toNat + 1)) := by
  rw [platformStep_of_request v hi, takeRequest, guardAccess_of_no_holes _ _ _ hholes]

/-- Settles O58: a request is skipped where I is 0, and is an entry through its vector where I is 1. -/
theorem requestsAreTakenOnlyWhenIIsSet : Obligations.RequestsAreTakenOnlyWhenIIsSet := by
  unfold Obligations.RequestsAreTakenOnlyWhenIIsSet
  refine fun s v => ⟨fun hi => ⟨?_, fun p => platformStep_of_no_request (.inr hi)⟩, fun hi => ⟨?_, fun p hholes => ?_⟩⟩
  · rw [platformStep_of_no_request (.inr hi), platformStep_defaultPlatform]
  · exact ⟨_, platformStep_enters v hi rfl, savedForHandler_enterVector s _ _ _,
      handlerAddr_tableTarget Config.vecBase (v.toNat + 1) _⟩
  · exact ⟨_, platformStep_enters v hi hholes, savedForHandler_enterVector s _ _ _, rfl⟩

/-! ## The memory map (R56) -/

/-- A hole's addresses are counted from its base, mod 2^16. -/
theorem inHole_iff (h : Hole) (a : Word) : inHole h a = true ↔ ∃ k < h.size, a = h.base + BitVec.ofNat 16 k := by
  rw [inHole, decide_eq_true_eq]
  constructor
  · intro hlt
    exact ⟨_, hlt, by rw [BitVec.ofNat_toNat, BitVec.setWidth_eq, BitVec.add_comm, BitVec.sub_add_cancel]⟩
  · rintro ⟨k, hk, rfl⟩
    have offset : h.base + BitVec.ofNat 16 k - h.base = BitVec.ofNat 16 k := by
      rw [BitVec.add_comm, BitVec.add_sub_cancel]
    rw [offset, BitVec.toNat_ofNat]
    exact (Nat.mod_le _ _).trans_lt hk

theorem isPlain_false_iff (p : Platform) (a : Word) :
    isPlain p a = false ↔ ∃ h ∈ p.holes, ∃ k < h.size, a = h.base + BitVec.ofNat 16 k := by
  simp only [isPlain, ← Bool.not_eq_true, List.all_eq_true, Bool.not_eq_true', not_forall, not_not, inHole_iff,
    exists_prop]

/-- The guard does what `Guarded` says. -/
theorem guarded_guardAccess (p : Platform) (addrs : List Word) (o : Outcome) :
    Guarded p addrs (guardAccess p addrs o) o := by
  rcases guardAccess_cases p addrs o with ⟨a, ha, hp, hr⟩ | ⟨hplain, ho⟩
  · refine ⟨fun _ _ _ => ⟨a, ha, hp, hr⟩, fun h => ?_⟩
    rw [h a ha] at hp
    cases hp
  · refine ⟨fun a ha hp => ?_, fun _ => ho⟩
    rw [hplain a ha] at hp
    cases hp

/-- The order of the addresses shows only in which one a refusal names. -/
theorem guarded_congr {p : Platform} {addrs addrs' : List Word} {o answer : Outcome}
    (same : ∀ a, a ∈ addrs' ↔ a ∈ addrs) (h : Guarded p addrs o answer) : Guarded p addrs' o answer := by
  simpa only [Guarded, same] using h

/-- The four bytes an entry pushes. -/
theorem mem_pushed_iff (sp a : Word) :
    a ∈ [sp - 4, sp - 3, sp - 2, sp - 1] ↔ a ∈ wordAt (sp - 2) ++ wordAt (sp - 2 - 2) := by
  have e4 : sp - 2 - 2 = sp - 4 := by bv_omega
  have e3 : sp - 4 + 1 = sp - 3 := by bv_omega
  rw [e4, wordAt, wordAt, sub_two_add_one, e3]
  exact List.perm_append_comm.mem_iff (l₁ := [sp - 4, sp - 3] ++ [sp - 2, sp - 1])

/-- Settles O59: each of the three kinds of step is guarded on the addresses it accesses. -/
theorem accessesOutsidePlainMemoryAreRefused : Obligations.AccessesOutsidePlainMemoryAreRefused := by
  unfold Obligations.AccessesOutsidePlainMemoryAreRefused
  refine fun p s req => ⟨isPlain_false_iff p, fun hreq => ⟨fun i rest h => ?_, fun r h => ?_⟩, ?_⟩
  · rw [platformStep_of_no_request hreq, platformStep_fetched h]
    exact guarded_guardAccess _ _ _
  · rw [platformStep_of_no_request hreq, platformStep_rejected h]
    exact guarded_guardAccess _ _ _
  · rintro v rfl hi
    rw [platformStep_of_request v hi]
    refine guarded_congr (fun a => ?_) (guarded_guardAccess _ _ _)
    rw [List.mem_append, List.mem_append (s := wordAt _ ++ wordAt _), mem_pushed_iff]

end Sys2Proof.Machine
end

section
/-! What the adder, the shifts and the flag helpers of spec 00_scope.md R9 to R12 compute, at every width, in exact
arithmetic. -/

namespace Sys2Proof.Machine

section Arithmetic
variable {w : Nat}

/-! ## Sign and zero of a result (R10) -/

theorem decide_eq_zero_iff (r : BitVec w) : decide (r = 0) = decide (r.toNat = 0) :=
  decide_eq_decide.mpr ⟨fun h => by simp [h], fun h => BitVec.eq_of_toNat_eq (by simpa using h)⟩

/-- N and Z from a result, as SetNZ writes them. -/
theorem setNZ_eq (f : Flags) (r : BitVec w) :
    f.setNZ r = { f with n := decide (2 ^ (w - 1) ≤ r.toNat), z := decide (r.toNat = 0) } := by
  rw [Flags.setNZ, BitVec.msb_eq_decide, decide_eq_zero_iff]

theorem setShift_eq (f : Flags) (r : BitVec w) (c : Bool) :
    f.setShift r c =
      { i := f.i, n := decide (2 ^ (w - 1) ≤ r.toNat), v := f.v, z := decide (r.toNat = 0), c := c } := by
  rw [Flags.setShift, setNZ_eq]

/-! ## The width as a power of two

With `p = 2 ^ (w - 1)` a value is below `2 * p`, negative from `p` on, and its sum with another wraps at `2 * p`. -/

theorem two_pow_eq_double (hw : 0 < w) : 2 ^ w = 2 * 2 ^ (w - 1) := by
  obtain ⟨n, rfl⟩ := Nat.exists_eq_succ_of_ne_zero hw.ne'
  rw [Nat.succ_sub_one, Nat.pow_succ, Nat.mul_comm]

theorem msb_iff (a : BitVec w) : a.msb = true ↔ 2 ^ (w - 1) ≤ a.toNat := by
  rw [BitVec.msb_eq_decide, decide_eq_true_eq]

theorem msb_eq_msb_iff (a b : BitVec w) : a.msb = b.msb ↔ (2 ^ (w - 1) ≤ a.toNat ↔ 2 ^ (w - 1) ≤ b.toNat) := by
  rw [Bool.eq_iff_iff, msb_iff, msb_iff]

theorem toInt_cases (hw : 0 < w) (a : BitVec w) :
    (a.toNat < 2 ^ (w - 1) ∧ a.toInt = a.toNat) ∨
      (2 ^ (w - 1) ≤ a.toNat ∧ a.toInt = a.toNat - 2 * (2 ^ (w - 1) : Nat)) := by
  rw [BitVec.toInt_eq_msb_cond, two_pow_eq_double hw]
  cases hm : a.msb with
  | false =>
    have small := (msb_iff a).not.mp (by simp [hm])
    exact .inl ⟨Nat.lt_of_not_le small, rfl⟩
  | true => exact .inr ⟨(msb_iff a).mp hm, by rw [if_pos rfl]; push_cast; rfl⟩

theorem toNat_lt_double (hw : 0 < w) (a : BitVec w) : a.toNat < 2 * 2 ^ (w - 1) := by
  rw [← two_pow_eq_double hw]
  exact a.isLt

/-! ## The adder (R9) -/

/-- The adder's result is the exact sum, or the exact sum less `2 ^ w` where there is a carry. -/
theorem addC_result_cases (hw : 0 < w) (a b : BitVec w) (cin : Bool) :
    ((addC a b cin).c = false ∧ a.toNat + b.toNat + cin.toNat < 2 * 2 ^ (w - 1) ∧
        (addC a b cin).r.toNat = a.toNat + b.toNat + cin.toNat) ∨
      ((addC a b cin).c = true ∧ 2 * 2 ^ (w - 1) ≤ a.toNat + b.toNat + cin.toNat ∧
        (addC a b cin).r.toNat + 2 * 2 ^ (w - 1) = a.toNat + b.toNat + cin.toNat) := by
  have ha := toNat_lt_double hw a
  have hb := toNat_lt_double hw b
  have hc := Bool.toNat_le cin
  rw [addC_carry, addC_result, two_pow_eq_double hw]
  by_cases h : 2 * 2 ^ (w - 1) ≤ a.toNat + b.toNat + cin.toNat
  · refine .inr ⟨decide_eq_true h, h, ?_⟩
    rw [Nat.mod_eq_sub_mod h, Nat.mod_eq_of_lt (by omega)]
    omega
  · exact .inl ⟨decide_eq_false h, by omega, Nat.mod_eq_of_lt (by omega)⟩

/-- V says that the exact signed sum does not fit. -/
theorem addC_overflow_iff (hw : 0 < w) (a b : BitVec w) (cin : Bool) :
    (addC a b cin).v = true ↔
      a.toInt + b.toInt + cin.toNat < -(2 ^ (w - 1) : Nat) ∨ (2 ^ (w - 1) : Nat) ≤ a.toInt + b.toInt + cin.toNat := by
  have hc := Bool.toNat_le cin
  have ha := toInt_cases hw a
  have hb := toInt_cases hw b
  have hr := addC_result_cases hw a b cin
  have ra := toNat_lt_double hw a
  have rb := toNat_lt_double hw b
  have rr := toNat_lt_double hw (addC a b cin).r
  simp only [addC_overflow, Bool.and_eq_true, decide_eq_true_eq, ne_eq, msb_eq_msb_iff]
  omega

/-- The flags after an addition, in exact arithmetic. -/
theorem setNVZC_addC (hw : 0 < w) (f : Flags) (a b : BitVec w) (cin : Bool) :
    f.setNVZC (addC a b cin) =
      { i := f.i
        n := decide (2 ^ (w - 1) ≤ (addC a b cin).r.toNat)
        v := decide (a.toInt + b.toInt + cin.toNat < -(2 ^ (w - 1) : Nat) ∨
          (2 ^ (w - 1) : Nat) - 1 < a.toInt + b.toInt + cin.toNat)
        z := decide ((addC a b cin).r.toNat = 0)
        c := decide (2 ^ w ≤ a.toNat + b.toNat + cin.toNat) } := by
  have overflow : (addC a b cin).v = decide (a.toInt + b.toInt + cin.toNat < -(2 ^ (w - 1) : Nat) ∨
      (2 ^ (w - 1) : Nat) - 1 < a.toInt + b.toInt + cin.toNat) := by
    rw [Bool.eq_iff_iff, addC_overflow_iff hw, decide_eq_true_eq, Int.sub_one_lt_iff]
  rw [Flags.setNVZC, overflow, addC_sign, addC_zero, addC_carry, BitVec.msb_eq_decide, decide_eq_zero_iff]

/-! ## Subtraction: the sum with the complement (R9, R161) -/

theorem toNat_not (b : BitVec w) : (~~~b).toNat + b.toNat + 1 = 2 ^ w := by
  have := b.isLt
  rw [BitVec.toNat_not]
  omega

theorem toInt_not (hw : 0 < w) (b : BitVec w) : (~~~b).toInt = -b.toInt - 1 := by
  have hnot := toNat_not b
  rw [two_pow_eq_double hw] at hnot
  have hb := toInt_cases hw b
  have hn := toInt_cases hw (~~~b)
  omega

/-- The result of a subtraction is the exact difference mod `2 ^ w`. -/
theorem subC_result (a b : BitVec w) (cin : Bool) :
    ((subC a b cin).r.toNat : Int) = ((a.toNat : Int) - b.toNat - (1 - cin.toNat : Nat)) % (2 ^ w : Nat) := by
  have hnot := toNat_not b
  have hc := Bool.toNat_le cin
  have difference : ((a.toNat + (~~~b).toNat + cin.toNat : Nat) : Int) =
      (a.toNat : Int) - b.toNat - (1 - cin.toNat : Nat) + (2 ^ w : Nat) := by omega
  rw [subC, addC_result, Int.natCast_mod, difference, Int.add_emod_right]

/-- C says that there was no borrow. -/
theorem subC_carry (a b : BitVec w) (cin : Bool) :
    (subC a b cin).c = decide (b.toNat + (1 - cin.toNat) ≤ a.toNat) := by
  have hnot := toNat_not b
  have hc := Bool.toNat_le cin
  rw [subC, addC_carry, decide_eq_decide]
  omega

/-- V says that the exact signed difference does not fit. -/
theorem subC_overflow (hw : 0 < w) (a b : BitVec w) (cin : Bool) :
    (subC a b cin).v =
      decide (a.toInt - b.toInt - (1 - cin.toNat : Nat) < -(2 ^ (w - 1) : Nat) ∨
        (2 ^ (w - 1) : Nat) - 1 < a.toInt - b.toInt - (1 - cin.toNat : Nat)) := by
  have hc := Bool.toNat_le cin
  rw [subC, Bool.eq_iff_iff, addC_overflow_iff hw, decide_eq_true_eq, toInt_not hw]
  omega

/-- The flags after a subtraction, in exact arithmetic. -/
theorem setNVZC_subC (hw : 0 < w) (f : Flags) (a b : BitVec w) (cin : Bool) :
    f.setNVZC (subC a b cin) =
      { i := f.i
        n := decide (2 ^ (w - 1) ≤ (subC a b cin).r.toNat)
        v := decide (a.toInt - b.toInt - (1 - cin.toNat : Nat) < -(2 ^ (w - 1) : Nat) ∨
          (2 ^ (w - 1) : Nat) - 1 < a.toInt - b.toInt - (1 - cin.toNat : Nat))
        z := decide ((subC a b cin).r.toNat = 0)
        c := decide (b.toNat + (1 - cin.toNat) ≤ a.toNat) } := by
  have sign : (subC a b cin).n = (subC a b cin).r.msb := rfl
  have zero : (subC a b cin).z = decide ((subC a b cin).r = 0) := rfl
  rw [Flags.setNVZC, subC_overflow hw, subC_carry, sign, zero, BitVec.msb_eq_decide, decide_eq_zero_iff]

/-! ## Shifts and rotates by one bit (R11) -/

theorem getLsbD_zero_eq (a : BitVec w) : a.getLsbD 0 = decide (a.toNat % 2 = 1) := by
  rw [BitVec.getLsbD, Nat.testBit_zero]

/-- The top bit as a quotient. -/
theorem toNat_div_top (hw : 0 < w) (a : BitVec w) :
    a.toNat / 2 ^ (w - 1) = if 2 ^ (w - 1) ≤ a.toNat then 1 else 0 := by
  have ha := toNat_lt_double hw a
  split
  next h => exact Nat.div_eq_of_lt_le (by omega) (by omega)
  next h => exact Nat.div_eq_of_lt (by omega)

theorem sh1_shl_toNat (a : BitVec w) : (sh1 .shl a).1.toNat = 2 * a.toNat % 2 ^ w := by
  simp [sh1, Nat.shiftLeft_eq, Nat.mul_comm]

theorem sh1_shr_toNat (a : BitVec w) : (sh1 .shr a).1.toNat = a.toNat / 2 := by
  simp [sh1, Nat.shiftRight_eq_div_pow]

/-- The top bit of a right shift of a signed value is the old one. -/
theorem sh1_sar_toNat (hw : 0 < w) (a : BitVec w) :
    (sh1 .sar a).1.toNat = a.toNat / 2 + 2 ^ (w - 1) * (a.toNat / 2 ^ (w - 1)) := by
  change (a.sshiftRight 1).toNat = _
  rw [toNat_div_top hw]
  by_cases ha : 2 ^ (w - 1) ≤ a.toNat
  · have hnot := toNat_not a
    have hnot' := toNat_not (~~~a >>> 1)
    rw [BitVec.toNat_ushiftRight, Nat.shiftRight_eq_div_pow, two_pow_eq_double hw] at hnot'
    rw [two_pow_eq_double hw] at hnot
    rw [BitVec.sshiftRight_eq_of_msb_true ((msb_iff a).mpr ha), if_pos ha]
    omega
  · have hm : a.msb = false := Bool.eq_false_iff.mpr fun h => ha ((msb_iff a).mp h)
    rw [BitVec.sshiftRight_eq_of_msb_false hm, if_neg ha, BitVec.toNat_ushiftRight, Nat.shiftRight_eq_div_pow]
    omega

/-- The bit rotated out at the top comes in at the bottom. -/
theorem sh1_rol_toNat (hw : 1 < w) (a : BitVec w) :
    (sh1 .rol a).1.toNat = 2 * a.toNat % 2 ^ w + a.toNat / 2 ^ (w - 1) := by
  have top : a.toNat / 2 ^ (w - 1) < 2 ^ 1 := by
    rw [toNat_div_top (by omega)]
    split <;> decide
  have even : 2 * a.toNat % 2 ^ w = 2 ^ 1 * (a.toNat % 2 ^ (w - 1)) := by
    rw [two_pow_eq_double (w := w) (by omega), Nat.mul_mod_mul_left, Nat.pow_one]
  rw [sh1, BitVec.toNat_rotateLeft, Nat.mod_eq_of_lt hw, Nat.shiftLeft_eq, Nat.shiftRight_eq_div_pow, Nat.pow_one,
    Nat.mul_comm a.toNat 2, even, Nat.two_pow_add_eq_or_of_lt top]

/-- The bit rotated out at the bottom comes in at the top. -/
theorem sh1_ror_toNat (hw : 1 < w) (a : BitVec w) :
    (sh1 .ror a).1.toNat = a.toNat / 2 + 2 ^ (w - 1) * (a.toNat % 2) := by
  have ha := toNat_lt_double (by omega) a
  have half : a.toNat / 2 < 2 ^ (w - 1) := by omega
  have top : a.toNat * 2 ^ (w - 1) % 2 ^ w = 2 ^ (w - 1) * (a.toNat % 2) := by
    rw [two_pow_eq_double (w := w) (by omega), Nat.mul_mod_mul_right, Nat.mul_comm]
  rw [sh1, BitVec.toNat_rotateRight, Nat.mod_eq_of_lt hw, Nat.shiftLeft_eq, Nat.shiftRight_eq_div_pow, Nat.pow_one, top,
    Nat.or_comm, ← Nat.two_pow_add_eq_or_of_lt half, Nat.add_comm]

/-! ## Counted shifts (R12) -/

/-- The closed form of a left shift by a count: the bit moved out last is the lowest that is gone. -/
theorem shN_shl_eq (hw : 0 < w) (cnt : Nat) (a : BitVec w) (c0 : Bool) :
    shN .shl cnt a c0 =
      (a <<< cnt, if cnt = 0 then c0 else if cnt ≤ w then a.getLsbD (w - cnt) else false) := by
  induction cnt generalizing a c0 with
  | zero => simp
  | succ n ih =>
    rw [shN_succ, ih, sh1, ← BitVec.shiftLeft_add, Nat.add_comm 1 n, if_neg (Nat.succ_ne_zero n)]
    refine Prod.ext rfl ?_
    rcases Nat.eq_zero_or_pos n with rfl | hn
    · simp [BitVec.msb_eq_getLsbD_last, Nat.succ_le_of_lt hw]
    · have index : w - n - 1 = w - (n + 1) := by omega
      simp only [if_neg hn.ne', BitVec.getLsbD_shiftLeft, index]
      rcases Nat.lt_or_ge n w with h | h
      · have inside : w - n < w ∧ ¬w - n < 1 := by omega
        simp [h.le, Nat.succ_le_of_lt h, inside]
      · have atEnd : w - n < 1 ∧ ¬n + 1 ≤ w := by omega
        simp [atEnd]

/-- Of a right shift by a count: the highest that is gone. -/
theorem shN_shr_eq (cnt : Nat) (a : BitVec w) (c0 : Bool) :
    shN .shr cnt a c0 =
      (a >>> cnt, if cnt = 0 then c0 else if cnt ≤ w then a.getLsbD (cnt - 1) else false) := by
  induction cnt generalizing a c0 with
  | zero => simp
  | succ n ih =>
    rw [shN_succ, ih, sh1, ← BitVec.shiftRight_add, Nat.add_comm 1 n, if_neg (Nat.succ_ne_zero n)]
    refine Prod.ext rfl ?_
    grind

/-- Of a right shift of a signed value: the same, and the sign once all bits are gone. -/
theorem shN_sar_eq (hw : 0 < w) (cnt : Nat) (a : BitVec w) (c0 : Bool) :
    shN .sar cnt a c0 =
      (a.sshiftRight cnt, if cnt = 0 then c0 else if cnt < w then a.getLsbD (cnt - 1) else a.msb) := by
  induction cnt generalizing a c0 with
  | zero => simp
  | succ n ih =>
    rw [shN_succ, ih, sh1, ← BitVec.sshiftRight_add, Nat.add_comm 1 n, if_neg (Nat.succ_ne_zero n)]
    refine Prod.ext rfl ?_
    grind

end Arithmetic

end Sys2Proof.Machine
end

section
/-! Settles the statements of spec 41_alu_byte.md and 42_alu_word.md on the register-transform group, and that of
00_scope.md R12. -/

namespace Sys2Proof.Machine

/-! ## The frame of a register transform (R160, R200) -/

/-- What a transform of a B register leaves: the other B registers, SP and memory; PC is at the next instruction. -/
theorem byteTransform_frame {s t : State} {x : BReg} {len : Nat} (others : SameBBut x s t) (hsp : t.sp = s.sp)
    (hmem : t.mem = s.mem) (hpc : t.pc = s.npc len) :
    SameBBut x s t ∧ t.sp = s.sp ∧ SameMemBut [] s t ∧ t.pc.toNat = (s.pc.toNat + len) % 65536 :=
  ⟨others, hsp, sameMemBut_of_mem_eq hmem _, by rw [hpc, toNat_npc]⟩

/-- And of a W register. -/
theorem wordTransform_frame {s t : State} {x : WReg} {len : Nat} (others : SameWBut x s t) (hsp : t.sp = s.sp)
    (hmem : t.mem = s.mem) (hpc : t.pc = s.npc len) :
    SameWBut x s t ∧ t.sp = s.sp ∧ SameMemBut [] s t ∧ t.pc.toNat = (s.pc.toNat + len) % 65536 :=
  ⟨others, hsp, sameMemBut_of_mem_eq hmem _, by rw [hpc, toNat_npc]⟩

/-! ## Moves and exchanges -/

/-- Settles O26: a write reads back, and the exchange writes `y` last, which is right for `x = y` too. -/
theorem byteMovesAndExchange : Obligations.ByteMovesAndExchange := by
  unfold Obligations.ByteMovesAndExchange
  refine fun s x y imm => ⟨fun i v len hlisted => ?move, ?swap⟩
  case move =>
    have hexec : exec i s = .next ((s.setB x v).advance len) := by
      simp only [List.mem_cons, List.not_mem_nil, or_false, Prod.mk.injEq] at hlisted
      rcases hlisted with ⟨rfl, rfl, rfl⟩ | ⟨rfl, rfl, rfl⟩ <;> rfl
    exact ⟨_, hexec, getB_setB_same s x v, fun z => getB_setB_other s x z v, rfl, rfl, sameMemBut_of_mem_eq rfl _,
      toNat_npc s len⟩
  case swap =>
    have first : ((s.setB x (s.getB y)).setB y (s.getB x)).getB x = s.getB y := by
      by_cases hxy : x = y
      · rw [hxy, getB_setB_same]
      · rw [getB_setB_other _ _ _ _ hxy, getB_setB_same]
    have others (z : BReg) (hzx : z ≠ x) (hzy : z ≠ y) :
        ((s.setB x (s.getB y)).setB y (s.getB x)).getB z = s.getB z := by
      rw [getB_setB_other _ _ _ _ hzy, getB_setB_other _ _ _ _ hzx]
    exact ⟨_, rfl, first, getB_setB_same _ y _, others, rfl, rfl, sameMemBut_of_mem_eq rfl _, toNat_npc s 2⟩

/-- Settles O33: as for the bytes, with SP as a source and as a target. -/
theorem wordMovesAndExchange : Obligations.WordMovesAndExchange := by
  unfold Obligations.WordMovesAndExchange
  refine fun s x y imm => ⟨fun i v len hlisted => ?move, ?toSp, ?swap⟩
  case move =>
    have hexec : exec i s = .next ((s.setW x v).advance len) := by
      simp only [List.mem_cons, List.not_mem_nil, or_false, Prod.mk.injEq] at hlisted
      rcases hlisted with ⟨rfl, rfl, rfl⟩ | ⟨rfl, rfl, rfl⟩ | ⟨rfl, rfl, rfl⟩ <;> rfl
    exact ⟨_, hexec, getW_setW_same s x v, getB_setW_other s x v, rfl, rfl, sameMemBut_of_mem_eq rfl _,
      toNat_npc s len⟩
  case toSp => exact ⟨_, rfl, rfl, rfl, rfl, sameMemBut_of_mem_eq rfl _, toNat_npc s 2⟩
  case swap =>
    have first : ((s.setW x (s.getW y)).setW y (s.getW x)).getW x = s.getW y := by
      by_cases hxy : x = y
      · rw [hxy, getW_setW_same]
      · rw [getW_setW_other _ _ _ _ hxy, getW_setW_same]
    have others (z : WReg) (hzx : z ≠ x) (hzy : z ≠ y) :
        ((s.setW x (s.getW y)).setW y (s.getW x)).getW z = s.getW z := by
      rw [getW_setW_other _ _ _ _ hzy, getW_setW_other _ _ _ _ hzx]
    exact ⟨_, rfl, first, getW_setW_same _ y _, others, rfl, rfl, sameMemBut_of_mem_eq rfl _, toNat_npc s 2⟩

/-! ## Logic -/

/-- Settles O27: the four are one shape with four results. -/
theorem byteLogicResultsAndFlags : Obligations.ByteLogicResultsAndFlags := by
  unfold Obligations.ByteLogicResultsAndFlags
  intro s x y i bit h
  obtain ⟨r, hexec, hbits⟩ : ∃ r, exec i s = .next (s.logicB x r) ∧
      ∀ k < 8, r.getLsbD k = bit ((s.getB x).getLsbD k) ((s.getB y).getLsbD k) := by
    rcases h with ⟨rfl, rfl⟩ | ⟨rfl, rfl⟩ | ⟨rfl, rfl⟩ | ⟨rfl, rfl⟩
    · exact ⟨_, rfl, fun k hk => by rw [BitVec.getLsbD_not, decide_eq_true hk, Bool.true_and]⟩
    · exact ⟨_, rfl, fun k _ => BitVec.getLsbD_and⟩
    · exact ⟨_, rfl, fun k _ => BitVec.getLsbD_or⟩
    · exact ⟨_, rfl, fun k _ => BitVec.getLsbD_xor⟩
  obtain ⟨result, others, hsp, hmem, hfl, hpc⟩ := logicB_fields s x r
  refine ⟨_, hexec, ?_, ?_, byteTransform_frame others hsp hmem hpc⟩ <;> rw [result]
  · exact hbits
  · exact hfl.trans (setNZ_eq _ _)

/-- Settles O34: as for the bytes, at 16 bits. -/
theorem wordLogicResultsAndFlags : Obligations.WordLogicResultsAndFlags := by
  unfold Obligations.WordLogicResultsAndFlags
  intro s x y i bit h
  obtain ⟨r, hexec, hbits⟩ : ∃ r, exec i s = .next (s.logicW x r) ∧
      ∀ k < 16, r.getLsbD k = bit ((s.getW x).getLsbD k) ((s.getW y).getLsbD k) := by
    rcases h with ⟨rfl, rfl⟩ | ⟨rfl, rfl⟩ | ⟨rfl, rfl⟩ | ⟨rfl, rfl⟩
    · exact ⟨_, rfl, fun k hk => by rw [BitVec.getLsbD_not, decide_eq_true hk, Bool.true_and]⟩
    · exact ⟨_, rfl, fun k _ => BitVec.getLsbD_and⟩
    · exact ⟨_, rfl, fun k _ => BitVec.getLsbD_or⟩
    · exact ⟨_, rfl, fun k _ => BitVec.getLsbD_xor⟩
  obtain ⟨result, -, hsp, hmem, hfl, hpc⟩ := logicW_fields s x r
  refine ⟨_, hexec, ?_, ?_, wordTransform_frame (getB_setW_other s x r) hsp hmem hpc⟩ <;> rw [result]
  · exact hbits
  · exact hfl.trans (setNZ_eq _ _)

/-! ## Arithmetic -/

/-- Settles O28: the three are the adder at three second summands. -/
theorem byteAddsResultsAndFlags : Obligations.ByteAddsResultsAndFlags := by
  unfold Obligations.ByteAddsResultsAndFlags
  intro s x y i b cin hlisted
  have hexec : exec i s = .next (s.arithB x (addC (s.getB x) b cin)) := by
    simp only [List.mem_cons, List.not_mem_nil, or_false, Prod.mk.injEq] at hlisted
    rcases hlisted with ⟨rfl, rfl, rfl⟩ | ⟨rfl, rfl, rfl⟩ | ⟨rfl, rfl, rfl⟩ <;> rfl
  obtain ⟨result, others, hsp, hmem, hfl, hpc⟩ := arithB_fields s x (addC (s.getB x) b cin)
  refine ⟨_, hexec, ?_, ?_, byteTransform_frame others hsp hmem hpc⟩ <;> rw [result]
  · exact addC_result _ _ _
  · exact hfl.trans (setNVZC_addC (by decide) _ _ _ _)

/-- Settles O35: as for the bytes, at 16 bits. -/
theorem wordAddsResultsAndFlags : Obligations.WordAddsResultsAndFlags := by
  unfold Obligations.WordAddsResultsAndFlags
  intro s x y i b cin hlisted
  have hexec : exec i s = .next (s.arithW x (addC (s.getW x) b cin)) := by
    simp only [List.mem_cons, List.not_mem_nil, or_false, Prod.mk.injEq] at hlisted
    rcases hlisted with ⟨rfl, rfl, rfl⟩ | ⟨rfl, rfl, rfl⟩ | ⟨rfl, rfl, rfl⟩ <;> rfl
  obtain ⟨result, -, hsp, hmem, hfl, hpc⟩ := arithW_fields s x (addC (s.getW x) b cin)
  refine ⟨_, hexec, ?_, ?_, wordTransform_frame (getB_setW_other s x _) hsp hmem hpc⟩ <;> rw [result]
  · exact addC_result _ _ _
  · exact hfl.trans (setNVZC_addC (by decide) _ _ _ _)

/-- Settles O29: the four are the subtraction at four pairs of operands, with a carry in where nothing is borrowed. -/
theorem byteSubtractsResultsAndFlags : Obligations.ByteSubtractsResultsAndFlags := by
  unfold Obligations.ByteSubtractsResultsAndFlags
  intro s x y i a b borrow hlisted
  obtain ⟨cin, hexec, rfl⟩ : ∃ cin : Bool, exec i s = .next (s.arithB x (subC a b cin)) ∧ borrow = 1 - cin.toNat := by
    simp only [List.mem_cons, List.not_mem_nil, or_false, Prod.mk.injEq] at hlisted
    rcases hlisted with ⟨rfl, rfl, rfl, rfl⟩ | ⟨rfl, rfl, rfl, rfl⟩ | ⟨rfl, rfl, rfl, rfl⟩ | ⟨rfl, rfl, rfl, rfl⟩
    exacts [⟨true, rfl, rfl⟩, ⟨s.fl.c, rfl, rfl⟩, ⟨true, rfl, rfl⟩, ⟨true, rfl, rfl⟩]
  obtain ⟨result, others, hsp, hmem, hfl, hpc⟩ := arithB_fields s x (subC a b cin)
  refine ⟨_, hexec, ?_, ?_, byteTransform_frame others hsp hmem hpc⟩ <;> rw [result]
  · exact subC_result a b cin
  · exact hfl.trans (setNVZC_subC (by decide) _ _ _ _)

/-- Settles O36: as for the bytes, at 16 bits. -/
theorem wordSubtractsResultsAndFlags : Obligations.WordSubtractsResultsAndFlags := by
  unfold Obligations.WordSubtractsResultsAndFlags
  intro s x y i a b borrow hlisted
  obtain ⟨cin, hexec, rfl⟩ : ∃ cin : Bool, exec i s = .next (s.arithW x (subC a b cin)) ∧ borrow = 1 - cin.toNat := by
    simp only [List.mem_cons, List.not_mem_nil, or_false, Prod.mk.injEq] at hlisted
    rcases hlisted with ⟨rfl, rfl, rfl, rfl⟩ | ⟨rfl, rfl, rfl, rfl⟩ | ⟨rfl, rfl, rfl, rfl⟩ | ⟨rfl, rfl, rfl, rfl⟩
    exacts [⟨true, rfl, rfl⟩, ⟨s.fl.c, rfl, rfl⟩, ⟨true, rfl, rfl⟩, ⟨true, rfl, rfl⟩]
  obtain ⟨result, -, hsp, hmem, hfl, hpc⟩ := arithW_fields s x (subC a b cin)
  refine ⟨_, hexec, ?_, ?_, wordTransform_frame (getB_setW_other s x _) hsp hmem hpc⟩ <;> rw [result]
  · exact subC_result a b cin
  · exact hfl.trans (setNVZC_subC (by decide) _ _ _ _)

/-! ## Shifts -/

/-- Settles O30: the five are one shape with the five results of one-bit shifts. -/
theorem byteOneBitShiftsResultsAndFlags : Obligations.ByteOneBitShiftsResultsAndFlags := by
  unfold Obligations.ByteOneBitShiftsResultsAndFlags
  intro s x i r c hlisted
  obtain ⟨rc, hexec, rfl, rfl⟩ : ∃ rc, exec i s = .next (s.shiftB x rc) ∧ rc.1.toNat = r ∧ rc.2 = c := by
    simp only [List.mem_cons, List.not_mem_nil, or_false, Prod.mk.injEq] at hlisted
    rcases hlisted with ⟨rfl, rfl, rfl⟩ | ⟨rfl, rfl, rfl⟩ | ⟨rfl, rfl, rfl⟩ | ⟨rfl, rfl, rfl⟩ | ⟨rfl, rfl, rfl⟩
    exacts [⟨_, rfl, sh1_shl_toNat _, BitVec.msb_eq_decide (s.getB x)⟩, ⟨_, rfl, sh1_shr_toNat _, getLsbD_zero_eq _⟩,
      ⟨_, rfl, sh1_sar_toNat (by decide) _, getLsbD_zero_eq _⟩,
      ⟨_, rfl, sh1_ror_toNat (by decide) _, getLsbD_zero_eq _⟩,
      ⟨_, rfl, sh1_rol_toNat (by decide) _, BitVec.msb_eq_decide (s.getB x)⟩]
  obtain ⟨result, others, hsp, hmem, hfl, hpc⟩ := shiftB_fields s x rc
  exact ⟨_, hexec, by rw [result], hfl.trans (setShift_eq _ _ _),
    byteTransform_frame others hsp hmem hpc⟩

/-- Settles O37: as for the bytes, at 16 bits. -/
theorem wordOneBitShiftsResultsAndFlags : Obligations.WordOneBitShiftsResultsAndFlags := by
  unfold Obligations.WordOneBitShiftsResultsAndFlags
  intro s x i r c hlisted
  obtain ⟨rc, hexec, rfl, rfl⟩ : ∃ rc, exec i s = .next (s.shiftW x rc) ∧ rc.1.toNat = r ∧ rc.2 = c := by
    simp only [List.mem_cons, List.not_mem_nil, or_false, Prod.mk.injEq] at hlisted
    rcases hlisted with ⟨rfl, rfl, rfl⟩ | ⟨rfl, rfl, rfl⟩ | ⟨rfl, rfl, rfl⟩ | ⟨rfl, rfl, rfl⟩ | ⟨rfl, rfl, rfl⟩
    exacts [⟨_, rfl, sh1_shl_toNat _, BitVec.msb_eq_decide (s.getW x)⟩, ⟨_, rfl, sh1_shr_toNat _, getLsbD_zero_eq _⟩,
      ⟨_, rfl, sh1_sar_toNat (by decide) _, getLsbD_zero_eq _⟩,
      ⟨_, rfl, sh1_ror_toNat (by decide) _, getLsbD_zero_eq _⟩,
      ⟨_, rfl, sh1_rol_toNat (by decide) _, BitVec.msb_eq_decide (s.getW x)⟩]
  obtain ⟨result, -, hsp, hmem, hfl, hpc⟩ := shiftW_fields s x rc
  exact ⟨_, hexec, by rw [result], hfl.trans (setShift_eq _ _ _),
    wordTransform_frame (getB_setW_other s x _) hsp hmem hpc⟩

/-- Settles O31: the results of the closed forms as numbers. -/
theorem countedShiftClosedForms : Obligations.CountedShiftClosedForms := by
  unfold Obligations.CountedShiftClosedForms
  intro w hw a cnt c0
  have hpos : 0 < w := by omega
  rw [shN_shl_eq hpos, shN_shr_eq, shN_sar_eq hpos]
  refine ⟨⟨?shl, rfl⟩, ⟨?shr, rfl⟩, ⟨?sar, rfl⟩⟩
  case shl => rw [BitVec.toNat_shiftLeft, Nat.shiftLeft_eq]
  case shr => rw [BitVec.toNat_ushiftRight, Nat.shiftRight_eq_div_pow]
  case sar => rw [BitVec.toInt_sshiftRight, Int.shiftRight_eq_div_pow, Nat.cast_pow, Nat.cast_ofNat]

/-- An unsigned value is the signed one mod `2 ^ w`. -/
theorem toNat_eq_toInt_emod {w : Nat} (a : BitVec w) : (a.toNat : Int) = a.toInt % (2 ^ w : Nat) := by
  rw [BitVec.toInt_eq_toNat_bmod, Int.bmod_emod, Int.emod_eq_of_lt (Int.natCast_nonneg _)]
  exact_mod_cast a.isLt

/-- The flags of a shift whose result is given as an integer. -/
theorem setShift_eq_of_toNat_eq {w : Nat} (f : Flags) (v : BitVec w) (c : Bool) {r : Int} (h : (v.toNat : Int) = r) :
    f.setShift v c =
      { i := f.i, n := decide ((2 ^ (w - 1) : Nat) ≤ r), v := f.v, z := decide (r = 0), c := c } := by
  subst h
  simp only [setShift_eq, Int.ofNat_le, Int.natCast_eq_zero]

/-- Settles O32: the three are one shape with the closed forms at 8 bits. -/
theorem byteCountedShiftsResultsAndFlags : Obligations.ByteCountedShiftsResultsAndFlags := by
  unfold Obligations.ByteCountedShiftsResultsAndFlags
  intro s x y i r c hlisted
  obtain ⟨rc, hexec, hr, rfl⟩ : ∃ rc, exec i s = .next (s.shiftB x rc) ∧ (rc.1.toNat : Int) = r ∧ rc.2 = c := by
    simp only [List.mem_cons, List.not_mem_nil, or_false, Prod.mk.injEq] at hlisted
    obtain ⟨⟨shl, shlC⟩, ⟨shr, shrC⟩, sar, sarC⟩ :=
      countedShiftClosedForms 8 (.inl rfl) (s.getB x) (s.getB y).toNat s.fl.c
    rcases hlisted with ⟨rfl, rfl, rfl⟩ | ⟨rfl, rfl, rfl⟩ | ⟨rfl, rfl, rfl⟩
    exacts [⟨_, rfl, congrArg Nat.cast shl, shlC⟩, ⟨_, rfl, congrArg Nat.cast shr, shrC⟩,
      ⟨_, rfl, by rw [toNat_eq_toInt_emod, ← sar]; rfl, sarC⟩]
  obtain ⟨result, others, hsp, hmem, hfl, hpc⟩ := shiftB_fields s x rc
  exact ⟨_, hexec, by rw [result, hr], hfl.trans (setShift_eq_of_toNat_eq _ _ _ hr),
    byteTransform_frame others hsp hmem hpc⟩

/-- Settles O38: the three are one shape with the closed forms at 16 bits. -/
theorem wordCountedShiftsResultsAndFlags : Obligations.WordCountedShiftsResultsAndFlags := by
  unfold Obligations.WordCountedShiftsResultsAndFlags
  intro s x y i r c hlisted
  obtain ⟨rc, hexec, hr, rfl⟩ : ∃ rc, exec i s = .next (s.shiftW x rc) ∧ (rc.1.toNat : Int) = r ∧ rc.2 = c := by
    simp only [List.mem_cons, List.not_mem_nil, or_false, Prod.mk.injEq] at hlisted
    obtain ⟨⟨shl, shlC⟩, ⟨shr, shrC⟩, sar, sarC⟩ :=
      countedShiftClosedForms 16 (.inr rfl) (s.getW x) (s.getB y).toNat s.fl.c
    rcases hlisted with ⟨rfl, rfl, rfl⟩ | ⟨rfl, rfl, rfl⟩ | ⟨rfl, rfl, rfl⟩
    exacts [⟨_, rfl, congrArg Nat.cast shl, shlC⟩, ⟨_, rfl, congrArg Nat.cast shr, shrC⟩,
      ⟨_, rfl, by rw [toNat_eq_toInt_emod, ← sar]; rfl, sarC⟩]
  obtain ⟨result, -, hsp, hmem, hfl, hpc⟩ := shiftW_fields s x rc
  exact ⟨_, hexec, by rw [result, hr], hfl.trans (setShift_eq_of_toNat_eq _ _ _ hr),
    wordTransform_frame (getB_setW_other s x _) hsp hmem hpc⟩

/-! ## Word arithmetic by bytes (R161) -/

theorem toNat_word (h l : Byte) : (h ++ l : Word).toNat = h.toNat * 256 + l.toNat := by
  rw [BitVec.toNat_append, ← Nat.shiftLeft_add_eq_or_of_lt l.isLt, Nat.shiftLeft_eq]

theorem msb_word (h l : Byte) : (h ++ l : Word).msb = h.msb := BitVec.msb_append

/-- Adding the low bytes and then, with their carry, the high bytes gives the word sum, its carry, overflow and sign. -/
theorem addC_word (ah al bh bl : Byte) (cin : Bool) :
    (addC (ah ++ al : Word) (bh ++ bl) cin).r = (addC ah bh (addC al bl cin).c).r ++ (addC al bl cin).r ∧
      (addC (ah ++ al : Word) (bh ++ bl) cin).c = (addC ah bh (addC al bl cin).c).c ∧
      (addC (ah ++ al : Word) (bh ++ bl) cin).v = (addC ah bh (addC al bl cin).c).v ∧
      (addC (ah ++ al : Word) (bh ++ bl) cin).n = (addC ah bh (addC al bl cin).c).n := by
  have hcin := Bool.toNat_le cin
  have hcarry : (addC al bl cin).c.toNat = (al.toNat + bl.toNat + cin.toNat) / 256 := by
    have := al.isLt
    have := bl.isLt
    rw [addC_carry]
    by_cases h : 2 ^ 8 ≤ al.toNat + bl.toNat + cin.toNat
    · rw [decide_eq_true h, Bool.toNat_true]
      omega
    · rw [decide_eq_false h, Bool.toNat_false]
      omega
  have result :
      (addC (ah ++ al : Word) (bh ++ bl) cin).r = (addC ah bh (addC al bl cin).c).r ++ (addC al bl cin).r := by
    apply BitVec.eq_of_toNat_eq
    rw [toNat_word, addC_result, addC_result, addC_result, toNat_word, toNat_word, hcarry]
    omega
  refine ⟨result, ?carry, ?overflow, ?sign⟩
  case carry =>
    rw [addC_carry, addC_carry ah, decide_eq_decide, toNat_word, toNat_word, hcarry]
    omega
  case overflow => rw [addC_overflow, addC_overflow, result, msb_word, msb_word, msb_word]
  case sign => rw [addC_sign, addC_sign, result, msb_word]

/-- The same for subtraction, whose carry is no borrow: the complement of a word is that of its bytes. -/
theorem subC_word (ah al bh bl : Byte) (cin : Bool) :
    (subC (ah ++ al : Word) (bh ++ bl) cin).r = (subC ah bh (subC al bl cin).c).r ++ (subC al bl cin).r ∧
      (subC (ah ++ al : Word) (bh ++ bl) cin).c = (subC ah bh (subC al bl cin).c).c ∧
      (subC (ah ++ al : Word) (bh ++ bl) cin).v = (subC ah bh (subC al bl cin).c).v ∧
      (subC (ah ++ al : Word) (bh ++ bl) cin).n = (subC ah bh (subC al bl cin).c).n := by
  have complement : ~~~(bh ++ bl : Word) = ~~~bh ++ ~~~bl := BitVec.not_append
  rw [subC, complement]
  exact addC_word ah al (~~~bh) (~~~bl) cin

/-- Byte results written to the two halves are the word result written to the register. -/
theorem getB_arithB_arithB (s : State) (x : WReg) (lo hi : AddRec 8) (a : AddRec 16) (h : a.r = hi.r ++ lo.r)
    (r : BReg) :
    ((s.arithB (loHalf x) lo).arithB (hiHalf x) hi).getB r = (s.arithW x a).getB r := by
  have low : a.r.extractLsb' 0 8 = lo.r := by rw [h, low_of_append]
  have high : a.r.extractLsb' 8 8 = hi.r := by rw [h, high_of_append]
  rw [State.arithW, getB_advance, getB_setFlags, State.setW, low, high]
  rfl

/-- A write to a low half leaves the high halves. -/
theorem getB_hi_arithB_lo (s : State) (x y : WReg) (a : AddRec 8) :
    (s.arithB (loHalf x) a).getB (hiHalf y) = s.getB (hiHalf y) := by
  obtain ⟨-, others, -⟩ := arithB_fields s (loHalf x) a
  exact others _ (loHalf_ne_hiHalf x y).symm

/-- A byte operation on the low halves and the carrying one on the high halves, against the word operation. -/
theorem exec_carryChain {s : State} {x y : WReg} {first carrying whole : Instr}
    (op : {w : Nat} → BitVec w → BitVec w → Bool → AddRec w) (cin : Bool)
    (hfirst : exec first s = .next (s.arithB (loHalf x) (op (s.getB (loHalf x)) (s.getB (loHalf y)) cin)))
    (hcarrying : ∀ t : State,
      exec carrying t = .next (t.arithB (hiHalf x) (op (t.getB (hiHalf x)) (t.getB (hiHalf y)) t.fl.c)))
    (hwhole : exec whole s = .next (s.arithW x (op (s.getW x) (s.getW y) cin)))
    (hop : ∀ ah al bh bl : Byte,
      (op (ah ++ al : Word) (bh ++ bl) cin).r = (op ah bh (op al bl cin).c).r ++ (op al bl cin).r ∧
        (op (ah ++ al : Word) (bh ++ bl) cin).c = (op ah bh (op al bl cin).c).c ∧
        (op (ah ++ al : Word) (bh ++ bl) cin).v = (op ah bh (op al bl cin).c).v ∧
        (op (ah ++ al : Word) (bh ++ bl) cin).n = (op ah bh (op al bl cin).c).n) :
    ∃ t u v, exec first s = .next t ∧ exec carrying t = .next u ∧ exec whole s = .next v ∧
      (∀ r : BReg, u.getB r = v.getB r) ∧ u.fl.n = v.fl.n ∧ u.fl.v = v.fl.v ∧ u.fl.c = v.fl.c := by
  obtain ⟨hr, hc, hv, hn⟩ := hop (s.getB (hiHalf x)) (s.getB (loHalf x)) (s.getB (hiHalf y)) (s.getB (loHalf y))
  refine ⟨_, _, _, hfirst, hcarrying _, hwhole, fun r => getB_arithB_arithB s x _ _ _ ?_ r, ?_, ?_, ?_⟩ <;>
    simp only [getB_hi_arithB_lo]
  exacts [hr, hn.symm, hv.symm, hc.symm]

/-- Settles O39: both chains start without a carry, or without a borrow. -/
theorem carryChainsMakeWordArithmetic : Obligations.CarryChainsMakeWordArithmetic := by
  unfold Obligations.CarryChainsMakeWordArithmetic
  exact fun s x y =>
    ⟨exec_carryChain addC false rfl (fun _ => rfl) rfl fun ah al bh bl => addC_word ah al bh bl false,
      exec_carryChain subC true rfl (fun _ => rfl) rfl fun ah al bh bl => subC_word ah al bh bl true⟩

/-! ## The conditions after a subtraction (R264) -/

/-- The result of a subtraction without borrow is the difference of bit vectors. -/
theorem subC_result_eq_sub {w : Nat} (a b : BitVec w) : (subC a b true).r = a - b := by
  have hnot := toNat_not b
  apply BitVec.eq_of_toNat_eq
  rw [subC, addC_result, BitVec.toNat_sub, Bool.toNat_true]
  congr 1
  omega

section AfterSubtraction
variable {w : Nat} {f f₀ : Flags} {a b : BitVec w} (hf : f = f₀.setNVZC (subC a b true))
include hf

/-- C is set where nothing is borrowed. -/
theorem carry_after_sub : f.c = true ↔ b.toNat ≤ a.toNat := by
  rw [hf, setNVZC_c, subC_carry, decide_eq_true_eq]
  rfl

/-- Z is set where the operands are equal. -/
theorem zero_after_sub : f.z = true ↔ a = b := by
  have zero : (subC a b true).z = decide ((subC a b true).r = 0) := rfl
  rw [hf, setNVZC_z, zero, decide_eq_true_eq, subC_result_eq_sub, sub_eq_zero]

/-- N is the sign of the result. -/
theorem sign_after_sub : f.n = true ↔ (subC a b true).r.toInt < 0 := by
  have sign : (subC a b true).n = (subC a b true).r.msb := rfl
  rw [hf, setNVZC_n, sign, BitVec.msb_eq_toInt, decide_eq_true_eq]

variable (hw : 0 < w)
include hw

theorem overflow_after_sub :
    f.v = true ↔ a.toInt - b.toInt < -(2 ^ (w - 1) : Nat) ∨ (2 ^ (w - 1) : Nat) - 1 < a.toInt - b.toInt := by
  rw [hf, setNVZC_v, subC_overflow hw, decide_eq_true_eq, Bool.toNat_true, Nat.sub_self, Nat.cast_zero, Int.sub_zero]

/-- N and V agree where the signed first operand is not the smaller: the result has the sign of the exact difference
where that fits, and the other sign where it does not. -/
theorem sign_eq_overflow_after_sub : f.n = f.v ↔ b.toInt ≤ a.toInt := by
  have ha := toInt_cases hw a
  have hb := toInt_cases hw b
  have hr := addC_result_cases hw a (~~~b) true
  have hnot := toNat_not b
  have ra := toNat_lt_double hw a
  have rb := toNat_lt_double hw b
  have rr := toInt_cases hw (subC a b true).r
  rw [two_pow_eq_double hw] at hnot
  rw [Bool.eq_iff_iff, sign_after_sub hf, overflow_after_sub hf hw]
  rw [subC] at rr ⊢
  rw [Bool.toNat_true] at hr
  omega

end AfterSubtraction

/-- The fourteen jumps after a subtraction, at any width, with `lo` and `hi` the bounds of the signed values (R264). -/
theorem jump_after_sub {w : Nat} (hw : 0 < w) {f₀ : Flags} {a b r : BitVec w} {t : State} {d : Byte} {lo hi : Int}
    (hf : t.fl = f₀.setNVZC (subC a b true)) (hr : r = (subC a b true).r) (hlo : lo = -(2 ^ (w - 1) : Nat))
    (hhi : hi = (2 ^ (w - 1) : Nat) - 1) {j : Instr} {cond : Prop}
    (h : (j = .jz d ∧ (cond ↔ a = b)) ∨ (j = .jnz d ∧ (cond ↔ a ≠ b)) ∨
      (j = .jc d ∧ (cond ↔ b.toNat ≤ a.toNat)) ∨ (j = .jnc d ∧ (cond ↔ a.toNat < b.toNat)) ∨
      (j = .ja d ∧ (cond ↔ b.toNat < a.toNat)) ∨ (j = .jbe d ∧ (cond ↔ a.toNat ≤ b.toNat)) ∨
      (j = .jge d ∧ (cond ↔ b.toInt ≤ a.toInt)) ∨ (j = .jl d ∧ (cond ↔ a.toInt < b.toInt)) ∨
      (j = .jg d ∧ (cond ↔ b.toInt < a.toInt)) ∨ (j = .jle d ∧ (cond ↔ a.toInt ≤ b.toInt)) ∨
      (j = .jn d ∧ (cond ↔ r.toInt < 0)) ∨ (j = .jnn d ∧ (cond ↔ 0 ≤ r.toInt)) ∨
      (j = .jv d ∧ (cond ↔ a.toInt - b.toInt < lo ∨ hi < a.toInt - b.toInt)) ∨
      (j = .jnv d ∧ (cond ↔ lo ≤ a.toInt - b.toInt ∧ a.toInt - b.toInt ≤ hi))) :
    (cond → exec j t = .next { t with pc := t.pc + 2 + d.signExtend 16 }) ∧
      (¬cond → exec j t = .next { t with pc := t.pc + 2 }) := by
  have eqToNat : a = b ↔ a.toNat = b.toNat := BitVec.toNat_inj.symm
  have eqToInt : a = b ↔ a.toInt = b.toInt := BitVec.toInt_inj.symm
  have c := carry_after_sub hf
  have z := zero_after_sub hf
  have n := sign_after_sub hf
  have v := overflow_after_sub hf hw
  have nv := sign_eq_overflow_after_sub hf hw
  rw [← hr] at n
  rw [← hlo, ← hhi] at v
  obtain ⟨k, hexec, hcond⟩ : ∃ k : Cond, exec j t = .next (t.jumpIf k d) ∧ (cond ↔ k.holds t.fl = true) := by
    rcases h with ⟨rfl, h⟩ | ⟨rfl, h⟩ | ⟨rfl, h⟩ | ⟨rfl, h⟩ | ⟨rfl, h⟩ | ⟨rfl, h⟩ | ⟨rfl, h⟩ | ⟨rfl, h⟩ | ⟨rfl, h⟩ |
      ⟨rfl, h⟩ | ⟨rfl, h⟩ | ⟨rfl, h⟩ | ⟨rfl, h⟩ | ⟨rfl, h⟩
    · exact ⟨.z, rfl, h.trans z.symm⟩
    · exact ⟨.nz, rfl, by rw [h, Cond.holds, Bool.not_eq_true', ← Bool.not_eq_true, z]⟩
    · exact ⟨.c, rfl, h.trans c.symm⟩
    · exact ⟨.nc, rfl, by rw [h, Cond.holds, Bool.not_eq_true', ← Bool.not_eq_true, c, Nat.not_le]⟩
    · exact ⟨.a, rfl, by rw [h, holds_a_iff, ← Bool.not_eq_true, c, z, eqToNat]; omega⟩
    · exact ⟨.be .resolved, rfl, by rw [h, holds_be_resolved_iff, ← Bool.not_eq_true, c, z, eqToNat]; omega⟩
    · exact ⟨.ge, rfl, by rw [h, holds_ge_iff, nv]⟩
    · exact ⟨.l, rfl, by rw [h, holds_l_iff, ne_eq, nv, Int.not_le]⟩
    · exact ⟨.g, rfl, by rw [h, holds_g_iff, ← Bool.not_eq_true, nv, z, eqToInt]; omega⟩
    · exact ⟨.le, rfl, by rw [h, holds_le_iff, ne_eq, nv, z, eqToInt]; omega⟩
    · exact ⟨.n, rfl, h.trans n.symm⟩
    · exact ⟨.nn, rfl, by rw [h, Cond.holds, Bool.not_eq_true', ← Bool.not_eq_true, n, Int.not_lt]⟩
    · exact ⟨.v, rfl, h.trans v.symm⟩
    · exact ⟨.nv, rfl, by rw [h, Cond.holds, Bool.not_eq_true', ← Bool.not_eq_true, v]; omega⟩
  obtain ⟨taken, notTaken⟩ := jumpIf_of_cond_iff d hcond
  exact ⟨fun hc => by rw [hexec, taken hc]; rfl, fun hc => by rw [hexec, notTaken hc]; rfl⟩

/-- Settles O49: the flags after SUB are those of the subtraction at 8 bits. -/
theorem conditionsAfterByteSubtraction : Obligations.ConditionsAfterByteSubtraction := by
  unfold Obligations.ConditionsAfterByteSubtraction
  intro s x y d
  obtain ⟨result, -, -, -, hfl, -⟩ := arithB_fields s x (subC (s.getB x) (s.getB y) true)
  exact ⟨_, rfl, fun j cond h => jump_after_sub (by decide) hfl result rfl rfl h⟩

/-- Settles O50: the same at 16 bits. -/
theorem conditionsAfterWordSubtraction : Obligations.ConditionsAfterWordSubtraction := by
  unfold Obligations.ConditionsAfterWordSubtraction
  intro s x y d
  obtain ⟨result, -, -, -, hfl, -⟩ := arithW_fields s x (subC (s.getW x) (s.getW y) true)
  exact ⟨_, rfl, fun j cond h => jump_after_sub (by decide) hfl result rfl rfl h⟩

end Sys2Proof.Machine
end
